-- ==== Sys2Proof/Word.lean ====
section
/-! DEFINITION. The machine's words: widths only, no behaviour. Every value of the block is an unsigned bit vector of a
stated width and nothing is signed (00_scope.md R14). -/

namespace Sys2Proof

/-- A data word, an uninterpreted bit vector (00_scope.md R9, `WORD_BITS`); also the width of the address operand
(`REQ_ADDR_BITS`), of a counter (`CNT_BITS`) and of a status register. Entry 14 says these widths are fixed. -/
abbrev Word := BitVec 32

/-- A word address of the backing memory, `N_ADDRESS_BITS` wide (00_scope.md R7): 0..1023, so that no word that does not
exist can be named (20_memory.md R60). -/
abbrev Addr := BitVec 10

/-- The `op` field of a request (00_scope.md R9, `OP_BITS`; 30_encoding.md R85). -/
abbrev OpCode := BitVec 3

/-- The request word `REQ` (30_encoding.md R84): op in bits 66..64, addr in 63..32, wdata in 31..0. -/
abbrev RequestWord := BitVec 67

/-- The response word `RSP` (30_encoding.md R96): status in bits 35..34, outcome in 33..32, rdata in 31..0. -/
abbrev ResponseWord := BitVec 36

/-- The index of a line, `LINE_BITS` wide (00_scope.md R8). -/
abbrev LineIndex := BitVec 4

/-- A word's position within its block, `OFFSET_BITS` wide (00_scope.md R8). -/
abbrev Offset := BitVec 2

end Sys2Proof
end

