-- ==== Sys2Proof/Syntax.lean ====
section
/-! DEFINITION. The operations of the block, one constructor per row of spec/opcode_table.json (30_encoding.md R85). An
operand is held exactly where the operation uses it: the fields an operation ignores (R91) are no part of it, as in the
decoder's list of R97. -/

namespace Sys2Proof

/-- One operation (00_scope.md R11) or reserved code (30_encoding.md R90). -/
inductive Instr where
  /-- `RD addr`, read reference (42_read.md R120). -/
  | rd (addr : Word)
  /-- `WR addr, wdata`, write reference (43_write.md R130). -/
  | wr (addr : Word) (wdata : Word)
  /-- `DEC addr`, address decomposition (40_address_decode.md R105). -/
  | dec (addr : Word)
  /-- `SRD reg`, status-register read (44_status.md R140). -/
  | srd (reg : Word)
  /-- Reserved code `0b000` (30_encoding.md R90). -/
  | reserved0
  /-- Reserved code `0b101` (30_encoding.md R90). -/
  | reserved5
  /-- Reserved code `0b110` (30_encoding.md R90). -/
  | reserved6
  /-- Reserved code `0b111` (30_encoding.md R90). -/
  | reserved7
deriving DecidableEq, Repr

end Sys2Proof
end

