-- ==== Sys2Proof/WellFormed.lean ====
section
/-! DEFINITION. What can be wrong with a request before it is performed. Every operand of `Instr` is a bit vector of its
field's width, so every term of `Instr` can be written as a request word; the checks are that a number is a request word at
all, and that an operation exists in the configured variant. -/

namespace Sys2Proof

/-- A number is a request word when it fits the 67 bits of 30_encoding.md R84. -/
def RequestWord.fits (w : Nat) : Bool := w < 2 ^ 67

/-- The complement of `illegal(op)` (30_encoding.md R90): a reserved code is no operation, and `WR` is one only in the
extended variant. -/
def Instr.legal (hasData : Bool) : Instr → Bool
  | .rd _ => true
  | .wr _ _ => hasData
  | .dec _ => true
  | .srd _ => true
  | .reserved0 => false
  | .reserved5 => false
  | .reserved6 => false
  | .reserved7 => false

end Sys2Proof
end

