-- ==== Sys2Proof/Decode.lean ====
section
/-! DEFINITION. The decoder of request words and the encoder (30_encoding.md R84, R85, R90, R97). -/

namespace Sys2Proof

/-- The `op` field, `REQ[66:64]` (R84). -/
def reqOp (w : RequestWord) : OpCode := w.extractLsb' 64 3
/-- The `addr` field, `REQ[63:32]` (R84). -/
def reqAddr (w : RequestWord) : Word := w.extractLsb' 32 32
/-- The `wdata` field, `REQ[31:0]` (R84). -/
def reqWdata (w : RequestWord) : Word := w.extractLsb' 0 32

/-- The request word of three fields (R84). -/
def requestWord (op : OpCode) (addr wdata : Word) : RequestWord := op ++ addr ++ wdata

/-- The operation of an accepted `(op, addr, wdata)`: selected by `op` alone, total, and with the fields an operation
ignores not looked at (R85, R91, R97; entry 15). -/
def decodeFields (op : OpCode) (addr wdata : Word) : Instr :=
  match op with
  | 0b000 => .reserved0
  | 0b001 => .rd addr
  | 0b010 => .wr addr wdata
  | 0b011 => .dec addr
  | 0b100 => .srd addr
  | 0b101 => .reserved5
  | 0b110 => .reserved6
  | 0b111 => .reserved7

/-- The decoder of request words: total on all 67-bit words (R97). -/
def decode (w : RequestWord) : Instr := decodeFields (reqOp w) (reqAddr w) (reqWdata w)

/-- Why a number is no request. -/
inductive DecodeError where
  /-- It does not fit the one format there is, 67 bits (R84, R93). -/
  | widerThanARequest
deriving DecidableEq, Repr

/-- The decoder on any number: it refuses by name what is no request word. -/
def decodeNumber (w : Nat) : Except DecodeError Instr :=
  if RequestWord.fits w then .ok (decode (BitVec.ofNat 67 w)) else .error .widerThanARequest

/-- The operation code of an operation (R85). -/
def Instr.opCode : Instr → OpCode
  | .reserved0 => 0b000
  | .rd _ => 0b001
  | .wr _ _ => 0b010
  | .dec _ => 0b011
  | .srd _ => 0b100
  | .reserved5 => 0b101
  | .reserved6 => 0b110
  | .reserved7 => 0b111

/-- What an operation carries in the `addr` field; zero where it uses none (entry 15). -/
def Instr.addrField : Instr → Word
  | .rd addr => addr
  | .wr addr _ => addr
  | .dec addr => addr
  | .srd reg => reg
  | .reserved0 => 0
  | .reserved5 => 0
  | .reserved6 => 0
  | .reserved7 => 0

/-- What an operation carries in the `wdata` field: "`wdata = 0` where the operation has none" (R94). -/
def Instr.wdataField : Instr → Word
  | .wr _ wdata => wdata
  | .rd _ => 0
  | .dec _ => 0
  | .srd _ => 0
  | .reserved0 => 0
  | .reserved5 => 0
  | .reserved6 => 0
  | .reserved7 => 0

/-- The request word of an operation (R84, R85, R94). -/
def encode (i : Instr) : RequestWord := requestWord i.opCode i.addrField i.wdataField

/-- The request word whose bits are those of `w` below `nbits`, every bit above zero: how the opcode table numbers the bits
of a request, bit 0 the least significant (R84). -/
def tableRequest (nbits w : Nat) : RequestWord := BitVec.ofNat 67 (w % 2 ^ nbits)

/-- The operation the decoder reads from a table word; none where the bits it is given do not fit a request (entry 19). -/
def decodeTableWord (nbits w : Nat) : Option Instr :=
  match decodeNumber (w % 2 ^ nbits) with
  | .ok i => some i
  | .error _ => none

end Sys2Proof
end

