-- ==== Sys2Proof/Config.lean ====
section
/-! DEFINITION. What the hardware fixes (constants of 00_scope.md R7, R8) and the free values: constants with no body, of
which no proof can know the value, one for each point the spec leaves open. -/

namespace Sys2Proof

/-- `WORD_SIZE` in bytes (00_scope.md R7). The byte sizes serve only to derive the counts below (20_memory.md R51). -/
def Config.wordSize : Nat := 4
/-- `BLOCK_SIZE` in bytes (R7). -/
def Config.blockSize : Nat := 16
/-- `CACHE_SIZE` in bytes (R7). -/
def Config.cacheSize : Nat := 256
/-- `MEM_SIZE` in bytes (R7). -/
def Config.memSize : Nat := 4096
/-- `N_LINES` (R7). -/
def Config.nLines : Nat := Config.cacheSize / Config.blockSize
/-- `WORDS_PER_BLOCK` (R8). -/
def Config.wordsPerBlock : Nat := Config.blockSize / Config.wordSize
/-- `N_BLOCKS` (R8). -/
def Config.nBlocks : Nat := Config.memSize / Config.blockSize
/-- `N_WORDS` (R8). -/
def Config.nWords : Nat := Config.memSize / Config.wordSize
/-- `MAX_ADDR`, the largest legal word address (R8). -/
def Config.maxAddr : Nat := Config.nWords - 1

/-- `MEM_INIT` (00_scope.md R10): the contents of the backing memory before the first operation, which no source states.
A free value: entry 2 (DESIGN CHOICE, safe). -/
opaque Config.memInit : Addr → Word

/-- `WR_HIT_UPDATES_LASTOFFSET` (00_scope.md R10, 43_write.md R133) of the hardware whose reset state `State.reset` is: left
OPEN by the spec, so a free value. Entry 3 (DESIGN CHOICE, safe). -/
opaque Config.wrHitUpdatesLastOffset : Bool

/-- `any32` (00_scope.md R14, 93_implementation_defined.md U2): the n-th fresh word under no law. Entry 4 (DESIGN CHOICE,
safe). -/
opaque Config.any32 : Nat → Word

/-- What the `tag` of line i holds after reset: meaningless, and never to be taken as zero (10_state.md R23). Entry 5. -/
opaque Config.unsetTag : Nat → BitVec 4
/-- What the `blockIndex` of line i holds after reset (10_state.md R23). Entry 5. -/
opaque Config.unsetBlockIndex : Nat → BitVec 8
/-- What the `lastOffset` of line i holds after reset (10_state.md R23). Entry 5. -/
opaque Config.unsetLastOffset : Nat → Offset
/-- What word w of the data of line i holds after reset (10_state.md R23). Entry 5. -/
opaque Config.unsetData : Nat → Nat → Word

/-- `mem_addr` in the states in which it is "of no meaning" (45_control_fsm.md R151, 93_implementation_defined.md U12), for
each of the eight FSM states by number. Entry 13 (DESIGN CHOICE, safe). -/
opaque Config.idleMemAddr : Nat → Addr

end Sys2Proof
end

