-- ==== Sys2Proof/Machine/State.lean ====
section
/-! DEFINITION. The whole state of the block as plain data (10_state.md R20), and the state after reset (10_state.md R40). -/

namespace Sys2Proof.Machine

/-- Why the machine stops with a fault: never. Both errors of the block are ordinary responses (60_exceptions.md R173, R175;
entry 12), and a transfer's address is 10 bits wide, so that no access to a word that does not exist can be expressed
(20_memory.md R60). The type has no constructor, which is safe: it takes no behaviour away. -/
inductive Fault where
deriving DecidableEq, Repr

/-- Why an operation has no meaning in the model. -/
inductive Refusal where
  /-- Raised by an arm of `exec` for an operation that has no meaning yet; no arm raises it. Safe: the model stops where the
  hardware goes on. -/
  | notModelled (mnemonic : String)
deriving DecidableEq, Repr

/-- The parameters of the hardware, fixed for its life (00_scope.md R9, R10; entry 3). -/
structure Params where
  /-- `HAS_DATA`: true for the extended variant, false for the basic one (R2). -/
  hasData : Bool
  /-- `WR_HIT_UPDATES_LASTOFFSET` (43_write.md R133). -/
  wrHitUpdatesLastOffset : Bool
deriving DecidableEq, Repr

/-- One slot of the cache array (10_state.md R22). While `valid` is false the other fields are meaningless and no rule reads
them (R23). -/
structure CacheLine where
  valid : Bool
  tag : BitVec 4
  blockIndex : BitVec 8
  lastOffset : Offset
  /-- Extended variant only: nothing reads or writes it in the basic variant (R28). -/
  data : Vector Word 4
deriving DecidableEq, Repr

/-- The states of the control FSM (45_control_fsm.md R150). -/
inductive Fsm where
  | sIdle | sExec | sFill0 | sFill1 | sFill2 | sFill3 | sWmem | sResp
deriving DecidableEq, Repr

/-- The status of a response (30_encoding.md R87); the fourth code is never produced (93_implementation_defined.md U14). -/
inductive Status where
  | ok | oob | illegal
deriving DecidableEq, Repr

/-- The outcome of a response (30_encoding.md R88). -/
inductive RefOutcome where
  | none | hit | miss | missEvict
deriving DecidableEq, Repr

/-- One transfer on the backing-memory interface (20_memory.md R61). -/
inductive Transfer where
  | read (addr : Addr) (value : Word)
  | write (addr : Addr) (value : Word)
deriving DecidableEq, Repr

/-- What the requester or the platform does next (entry 9): present a request word, or assert `rst` while the block is idle,
the directive RESET of 30_encoding.md R94. -/
inductive Stimulus where
  | request (word : RequestWord)
  | rst
deriving DecidableEq, Repr

/-- The backing memory (10_state.md R32) as (word address, word) pairs, addresses strictly rising and below 1024, one for
every word that a write transfer has changed; an unlisted word reads as `MEM_INIT` (entries 1, 2). -/
abbrev Memory := List (Nat × Word)

/-- The state of the block and its memory (10_state.md R20), and the model's own fields (entries 3, 4, 9, 10). -/
structure State where
  /-- The model's own: the hardware's parameters. No step changes them. -/
  params : Params
  /-- `line[0..15]` (10_state.md R21, R22). -/
  lines : Vector CacheLine 16
  /-- `hits` (10_state.md R30, R31). -/
  hits : Word
  /-- `misses` (10_state.md R30, R31). -/
  misses : Word
  /-- `evictions` (10_state.md R30, R31). -/
  evictions : Word
  /-- `Mem` (10_state.md R32). -/
  mem : Memory
  /-- `fsm` (10_state.md R33). -/
  fsm : Fsm
  /-- `op_q` (10_state.md R34). -/
  opQ : OpCode
  /-- `addr_q` (10_state.md R34). -/
  addrQ : Word
  /-- `wdata_q` (10_state.md R34). -/
  wdataQ : Word
  /-- `fb[0..2]`, the fill buffer (10_state.md R34). -/
  fb : Vector Word 3
  /-- `rsp_status_q` (10_state.md R34). -/
  rspStatusQ : Status
  /-- `rsp_outcome_q` (10_state.md R34). -/
  rspOutcomeQ : RefOutcome
  /-- `rsp_rdata_q` (10_state.md R34). -/
  rspRdataQ : Word
  /-- The model's own: the transfers made so far, oldest first (20_memory.md R61). -/
  transfers : List Transfer
  /-- The model's own: how many fresh `any32` have been drawn (00_scope.md R14). -/
  drawn : Nat
  /-- The model's own: what the requester and the platform do next, in order. -/
  stimuli : List Stimulus
deriving DecidableEq, Repr

/-- Line i after reset: invalid, every other field without a stated value (10_state.md R40; entry 5). -/
def CacheLine.unset (i : Nat) : CacheLine where
  valid := false
  tag := Config.unsetTag i
  blockIndex := Config.unsetBlockIndex i
  lastOffset := Config.unsetLastOffset i
  data := #v[Config.unsetData i 0, Config.unsetData i 1, Config.unsetData i 2, Config.unsetData i 3]

/-- The cache array after reset: all 16 lines invalid (10_state.md R40). -/
def resetLines : Vector CacheLine 16 :=
  #v[.unset 0, .unset 1, .unset 2, .unset 3, .unset 4, .unset 5, .unset 6, .unset 7,
     .unset 8, .unset 9, .unset 10, .unset 11, .unset 12, .unset 13, .unset 14, .unset 15]

/-- The machine of given parameters right after its power-up reset (10_state.md R40). The latches, the fill buffer and the
response registers are unspecified there; the values are the model's (entry 6, DESIGN CHOICE, unsafe). -/
def State.powerUp (p : Params) : State where
  params := p
  lines := resetLines
  hits := 0
  misses := 0
  evictions := 0
  mem := []
  fsm := .sIdle
  opQ := 0
  addrQ := 0
  wdataQ := 0
  fb := #v[0, 0, 0]
  rspStatusQ := .ok
  rspOutcomeQ := .none
  rspRdataQ := 0
  transfers := []
  drawn := 0
  stimuli := []

/-- The block the spec describes by default: `HAS_DATA` true (00_scope.md R9), `WR_HIT_UPDATES_LASTOFFSET` open (R10). -/
def Params.ofSpec : Params := ⟨true, Config.wrHitUpdatesLastOffset⟩

/-- The machine right after reset (10_state.md R40, 70_reset_and_hazards.md R190). -/
def State.reset : State := State.powerUp Params.ofSpec

end Sys2Proof.Machine
end

