-- ==== Sys2Proof/Machine/Operands.lean ====
section
/-! DEFINITION. Operands: the AddressDecoder (40_address_decode.md), the range checks (60_exceptions.md R170), the map of the
status space (44_status.md R141), and the encodings of a response (30_encoding.md R87, R88, R96). -/

namespace Sys2Proof.Machine

/-- The record the AddressDecoder returns (40_address_decode.md R100). -/
structure Decoded where
  offset : Offset
  blockIndex : BitVec 8
  line : LineIndex
  tag : BitVec 4
deriving DecidableEq, Repr

/-- The AddressDecoder: four bit slices of a 10-bit word address (R100). It is given no wider address (R104). -/
def decodeAddress (a : Addr) : Decoded where
  offset := a.extractLsb' 0 2
  blockIndex := a.extractLsb' 2 8
  line := a.extractLsb' 2 4
  tag := a.extractLsb' 6 4

/-- The word address `blockIndex*4 + w`, which is the concatenation of the two (R108). -/
def wordAddress (blockIndex : BitVec 8) (w : Offset) : Addr := blockIndex ++ w

/-- The packed decomposition that `DEC` returns (R105): offset in bits 1..0, line in 5..2, tag in 9..6, blockIndex in
17..10. -/
def packDecoded (d : Decoded) : Word := (d.blockIndex ++ d.tag ++ d.line ++ d.offset).setWidth 32

/-- The range check of the memory space: all 32 bits of the operand against `MAX_ADDR` (60_exceptions.md R170, 30_encoding.md
R91). -/
def inMemory (addr : Word) : Bool := addr.toNat ≤ Config.maxAddr

/-- `addr[9:0]` of an address that passed the range check (30_encoding.md R92). -/
def lowAddr (addr : Word) : Addr := addr.setWidth 10

/-- The registers of the status space (44_status.md R141). -/
inductive StatusReg where
  | hits
  | misses
  | evictions
  | lineMeta (i : LineIndex)
  | lineData (i : LineIndex) (w : Offset)
deriving DecidableEq, Repr

/-- The status-register map; none for an unmapped number. All 32 bits of the number are compared (R140, R141). -/
def statusReg (hasData : Bool) (reg : Word) : Option StatusReg :=
  let n := reg.toNat
  if n = 0x000 then some .hits
  else if n = 0x001 then some .misses
  else if n = 0x002 then some .evictions
  else if 0x010 ≤ n ∧ n ≤ 0x01F then some (.lineMeta (BitVec.ofNat 4 (n - 0x010)))
  else if hasData ∧ 0x040 ≤ n ∧ n ≤ 0x07F then
    some (.lineData (BitVec.ofNat 4 ((n - 0x040) / 4)) (BitVec.ofNat 2 ((n - 0x040) % 4)))
  else none

/-- `LINE_META`: valid in bit 0, tag in 4..1, blockIndex in 12..5, lastOffset in 14..13, and every field of an invalid line
shown as 0 (44_status.md R143). -/
def packLineMeta (l : CacheLine) : Word :=
  if l.valid then (l.lastOffset ++ l.blockIndex ++ l.tag ++ (1 : BitVec 1)).setWidth 32 else 0

/-- `LINE_DATA`: the cached word, or 0 for an invalid line (44_status.md R144). -/
def maskedWord (l : CacheLine) (w : Offset) : Word := if l.valid then l.data[w.toNat]'w.isLt else 0

/-- The operand of an operation lies in its space (60_exceptions.md R170): the complement of `oob` in 45_control_fsm.md
R152. -/
def operandInRange (hasData : Bool) : Instr → Bool
  | .rd addr => inMemory addr
  | .wr addr _ => inMemory addr
  | .dec addr => inMemory addr
  | .srd reg => (statusReg hasData reg).isSome
  | .reserved0 => true
  | .reserved5 => true
  | .reserved6 => true
  | .reserved7 => true

/-- The status codes (30_encoding.md R87). -/
def statusCode : Status → BitVec 2
  | .ok => 0b00
  | .oob => 0b01
  | .illegal => 0b10

/-- The outcome codes (30_encoding.md R88). -/
def outcomeCode : RefOutcome → BitVec 2
  | .none => 0b00
  | .hit => 0b01
  | .miss => 0b10
  | .missEvict => 0b11

/-- The response word of three fields (30_encoding.md R96). -/
def packResponse (st : Status) (o : RefOutcome) (rdata : Word) : ResponseWord := statusCode st ++ outcomeCode o ++ rdata

/-- The response word the response registers hold (R96). -/
def responseWord (s : State) : ResponseWord := packResponse s.rspStatusQ s.rspOutcomeQ s.rspRdataQ

end Sys2Proof.Machine
end

