-- ==== Sys2Proof/Machine/Flags.lean ====
section
/-! DEFINITION. The comparator, the classification of a reference (41_lookup_fill.md) and the saturating increment of the
counters (10_state.md R31). -/

namespace Sys2Proof.Machine

/-- The hit signal: the line is valid and holds the tag. Nothing else of the line is looked at, and the stored tag of an
invalid line is not (41_lookup_fill.md R110, R112). -/
def isHit (l : CacheLine) (d : Decoded) : Bool := l.valid && l.tag == d.tag

/-- The three classes of a reference (41_lookup_fill.md R111). -/
inductive RefClass where
  | coldMiss
  | conflictMiss
  | hit
deriving DecidableEq, Repr

/-- The class of a reference, from the line as it is before the operation (R111). -/
def classify (l : CacheLine) (d : Decoded) : RefClass :=
  if l.valid then (if l.tag = d.tag then .hit else .conflictMiss) else .coldMiss

/-- The outcome of a read reference that misses: an eviction when the line was valid (41_lookup_fill.md R115). -/
def missOutcome (evict : Bool) : RefOutcome := if evict then .missEvict else .miss

/-- `satinc` (10_state.md R31): a counter sticks at its largest value. -/
def satinc (c : Word) : Word := if c.toNat < 2 ^ 32 - 1 then c + 1 else c

end Sys2Proof.Machine
end

