-- ==== Sys2Proof/Machine/Ops.lean ====
section
/-! DEFINITION. The named operations over memory, lines, counters, transfers and responses that every meaning, of the
operation level and of the signal level, is written with. Raising an error is one operation here, `raiseError`; the block has
no return from one (60_exceptions.md R176). -/

namespace Sys2Proof.Machine

/-! ### The backing memory -/

/-- What a word that no write transfer has changed reads as: `MEM_INIT`, the spec's open parameter (10_state.md R40;
entry 2). -/
def Memory.unlisted (a : Addr) : Word := Config.memInit a

/-- The listed word at an address, if there is one. -/
def Memory.find : Memory → Nat → Option Word
  | [], _ => none
  | (b, v) :: m, a => if a = b then some v else Memory.find m a

/-- `Mem[a]` (00_scope.md R14). -/
def Memory.read (m : Memory) (a : Addr) : Word := (Memory.find m a.toNat).getD (Memory.unlisted a)

/-- List a word at an address, keeping the addresses strictly rising. -/
def Memory.insert : Memory → Nat → Word → Memory
  | [], a, v => [(a, v)]
  | (b, w) :: m, a, v =>
    if a < b then (a, v) :: (b, w) :: m
    else if a = b then (a, v) :: m
    else (b, w) :: Memory.insert m a v

/-- `Mem[a] <- v` (20_memory.md R63). -/
def Memory.write (m : Memory) (a : Addr) (v : Word) : Memory := Memory.insert m a.toNat v

/-- Every address of the list lies above `lo` and they rise strictly. -/
def Memory.risesFrom : Nat → Memory → Bool
  | _, [] => true
  | lo, (b, _) :: m => decide (lo ≤ b) && Memory.risesFrom (b + 1) m

/-- The canonical form: addresses strictly rising and inside the memory space 0..1023 (20_memory.md R57). -/
def Memory.wf (m : Memory) : Bool := Memory.risesFrom 0 m && m.all fun c => decide (c.1 < Config.nWords)

/-! ### The cache array -/

/-- `line[i]` (10_state.md R21). -/
def State.line (s : State) (i : LineIndex) : CacheLine := s.lines[i.toNat]'i.isLt

/-- Write `line[i]`; no other line is touched (10_state.md R21). -/
def State.setLine (s : State) (i : LineIndex) (l : CacheLine) : State :=
  { s with lines := s.lines.set i.toNat l i.isLt }

/-- The full overwrite of a miss: the four metadata fields (41_lookup_fill.md R113). -/
def fillMeta (d : Decoded) (l : CacheLine) : CacheLine :=
  { l with valid := true, tag := d.tag, blockIndex := d.blockIndex, lastOffset := d.offset }

/-- The full overwrite of a miss in the extended variant: metadata and the whole block (41_lookup_fill.md R113, R114). -/
def fillBlock (d : Decoded) (block : Vector Word 4) (l : CacheLine) : CacheLine := { fillMeta d l with data := block }

/-- Set `lastOffset` (41_lookup_fill.md R117). -/
def touch (d : Decoded) (l : CacheLine) : CacheLine := { l with lastOffset := d.offset }

/-- `data[offset] <- v` (43_write.md R131). -/
def storeWord (d : Decoded) (v : Word) (l : CacheLine) : CacheLine :=
  { l with data := l.data.set d.offset.toNat v d.offset.isLt }

/-- What a write hit makes of the line: the word, and `lastOffset` where the parameter says so (43_write.md R130, R133). -/
def writeHitLine (updatesOffset : Bool) (d : Decoded) (v : Word) (l : CacheLine) : CacheLine :=
  if updatesOffset then touch d (storeWord d v l) else storeWord d v l

/-! ### The counters -/

/-- `hits <- satinc(hits)` (41_lookup_fill.md R115). -/
def State.countHit (s : State) : State := { s with hits := satinc s.hits }
/-- `misses <- satinc(misses)` (41_lookup_fill.md R115). -/
def State.countMiss (s : State) : State := { s with misses := satinc s.misses }
/-- `if evict then evictions <- satinc(evictions)` (41_lookup_fill.md R115). -/
def State.countEviction (s : State) (evict : Bool) : State :=
  { s with evictions := if evict then satinc s.evictions else s.evictions }

/-! ### Transfers on the backing-memory interface -/

/-- One read transfer: the memory gives the word and does not change (20_memory.md R62). -/
def State.readTransfer (s : State) (a : Addr) : State :=
  { s with transfers := s.transfers ++ [.read a (s.mem.read a)] }

/-- One write transfer (20_memory.md R63). -/
def State.writeTransfer (s : State) (a : Addr) (v : Word) : State :=
  { s with mem := s.mem.write a v, transfers := s.transfers ++ [.write a v] }

/-- The fill buffer takes the word of read transfer k (45_control_fsm.md R152). -/
def State.setFb (s : State) (k : Fin 3) (v : Word) : State := { s with fb := s.fb.set k.val v k.isLt }

/-- Block b of the memory: `Mem[4b..4b+3]` (41_lookup_fill.md R114). -/
def Memory.block (m : Memory) (b : BitVec 8) : Vector Word 4 :=
  #v[m.read (wordAddress b 0), m.read (wordAddress b 1), m.read (wordAddress b 2), m.read (wordAddress b 3)]

/-- `MemRead(b*4, 4)`: four read transfers in ascending order, whatever word was asked for, the first three words passing
through the fill buffer (20_memory.md R62, R66; 10_state.md R34). The words are `Memory.block`. -/
def State.fetchBlock (s : State) (b : BitVec 8) : State :=
  let s0 := (s.readTransfer (wordAddress b 0)).setFb 0 (s.mem.read (wordAddress b 0))
  let s1 := (s0.readTransfer (wordAddress b 1)).setFb 1 (s.mem.read (wordAddress b 1))
  let s2 := (s1.readTransfer (wordAddress b 2)).setFb 2 (s.mem.read (wordAddress b 2))
  s2.readTransfer (wordAddress b 3)

/-! ### Responses -/

/-- `respond(status, outcome, rdata)`: load the response registers (30_encoding.md R86). -/
def respond (st : Status) (o : RefOutcome) (rdata : Word) (s : State) : State :=
  { s with rspStatusQ := st, rspOutcomeQ := o, rspRdataQ := rdata }

/-- An error, `raise OutOfBounds` or `raise Illegal`: the ordinary response `(status, NONE, 0)`, and nothing else changes
(60_exceptions.md R170 to R172, R175). -/
def raiseError (st : Status) (s : State) : State := respond st .none 0 s

/-- A response whose word is a fresh `any32` (42_read.md R124; entry 4). -/
def respondAny (o : RefOutcome) (s : State) : State :=
  { respond .ok o (Config.any32 s.drawn) s with drawn := s.drawn + 1 }

/-- An operation of the operation level ends in the state it has made, the block idle again (10_state.md R33). -/
def complete (s : State) : Host.Outcome State Fault Refusal := .next { s with fsm := .sIdle }

/-! ### What the two reference operations do, once the address is decoded -/

/-- A read hit (41_lookup_fill.md R117; 45_control_fsm.md R155): `lastOffset` and `hits`; the response is the cached word, or
in the basic variant `any32` (42_read.md R120 step 4). -/
def commitReadHit (d : Decoded) (s : State) : State :=
  let l := s.line d.line
  let t := (s.setLine d.line (touch d l)).countHit
  if s.params.hasData then respond .ok .hit (l.data[d.offset.toNat]'d.offset.isLt) t else respondAny .hit t

/-- A read miss of the basic variant (42_read.md R124; 45_control_fsm.md R155): metadata and counters only. -/
def commitBasicMiss (d : Decoded) (s : State) : State :=
  let l := s.line d.line
  respondAny (missOutcome l.valid) (((s.setLine d.line (fillMeta d l)).countMiss).countEviction l.valid)

/-- A read miss of the extended variant with the block that was fetched (41_lookup_fill.md R113 to R115; 45_control_fsm.md
R157): the line is overwritten whole and the word asked for is returned. -/
def commitFill (d : Decoded) (block : Vector Word 4) (s : State) : State :=
  let l := s.line d.line
  respond .ok (missOutcome l.valid) (block[d.offset.toNat]'d.offset.isLt)
    (((s.setLine d.line (fillBlock d block l)).countMiss).countEviction l.valid)

/-- The cache side of a write (43_write.md R130; 45_control_fsm.md R158): on a hit the cached word and `hits`, on a miss
`misses` alone; never an eviction. -/
def commitWrite (d : Decoded) (v : Word) (s : State) : State :=
  let l := s.line d.line
  if isHit l d then
    respond .ok .hit 0 ((s.setLine d.line (writeHitLine s.params.wrHitUpdatesLastOffset d v l)).countHit)
  else respond .ok .miss 0 s.countMiss

/-- The value of a status register (44_status.md R142 to R144). -/
def readStatus (s : State) : StatusReg → Word
  | .hits => s.hits
  | .misses => s.misses
  | .evictions => s.evictions
  | .lineMeta i => packLineMeta (s.line i)
  | .lineData i w => maskedWord (s.line i) w

/-! ### Reset and acceptance -/

/-- `rst` at a clock edge (70_reset_and_hazards.md R190): the reset state of 10_state.md R40, whatever the state was. The
memory is on the far side of the interface and keeps its contents (R193), and with it its history. -/
def applyRst (s : State) : State :=
  { State.powerUp s.params with mem := s.mem, transfers := s.transfers, drawn := s.drawn, stimuli := s.stimuli }

/-- The acceptance of a request (30_encoding.md R82): the three operands are latched and the block leaves `S_IDLE`. -/
def accept (op : OpCode) (addr wdata : Word) (s : State) : State :=
  { s with opQ := op, addrQ := addr, wdataQ := wdata, fsm := .sExec }

/-- The acceptance of a request word. -/
def acceptWord (w : RequestWord) (s : State) : State := accept (reqOp w) (reqAddr w) (reqWdata w) s

end Sys2Proof.Machine
end

