-- ==== Sys2Proof/Machine/AddressDecode.lean ====
section
/-! DEFINITION. The operation `DEC` (40_address_decode.md R105). -/

namespace Sys2Proof.Machine

/-- The response of `DEC` for an address in range: the packed decomposition, nothing else changed (R105). -/
def commitDecode (a : Addr) (s : State) : State := respond .ok .none (packDecoded (decodeAddress a)) s

/-- `DEC addr` (R105). -/
def execDec (addr : Word) (s : State) : Host.Outcome State Fault Refusal :=
  if inMemory addr then complete (commitDecode (lowAddr addr) s) else complete (raiseError .oob s)

end Sys2Proof.Machine
end

