-- ==== Sys2Proof/Machine/Read.lean ====
section
/-! DEFINITION. The read reference `RD` (42_read.md). -/

namespace Sys2Proof.Machine

/-- Lookup and fill of a read reference whose address is in range (42_read.md R120 steps 2 to 4; 41_lookup_fill.md R110 to
R117). -/
def readReference (a : Addr) (s : State) : State :=
  let d := decodeAddress a
  if isHit (s.line d.line) d then commitReadHit d s
  else if s.params.hasData then commitFill d (s.mem.block d.blockIndex) (s.fetchBlock d.blockIndex)
  else commitBasicMiss d s

/-- `RD addr` (42_read.md R120). -/
def execRd (addr : Word) (s : State) : Host.Outcome State Fault Refusal :=
  if inMemory addr then complete (readReference (lowAddr addr) s) else complete (raiseError .oob s)

end Sys2Proof.Machine
end

