-- ==== Sys2Proof/Machine/Reserved.lean ====
section
/-! DEFINITION. The reserved codes (30_encoding.md R90, 60_exceptions.md R172): each answers ILLEGAL and changes nothing. -/

namespace Sys2Proof.Machine

/-- Code `0b000` (R90). -/
def execReserved0 (s : State) : Host.Outcome State Fault Refusal := complete (raiseError .illegal s)

/-- Code `0b101` (R90). -/
def execReserved5 (s : State) : Host.Outcome State Fault Refusal := complete (raiseError .illegal s)

/-- Code `0b110` (R90). -/
def execReserved6 (s : State) : Host.Outcome State Fault Refusal := complete (raiseError .illegal s)

/-- Code `0b111` (R90). -/
def execReserved7 (s : State) : Host.Outcome State Fault Refusal := complete (raiseError .illegal s)

end Sys2Proof.Machine
end

