-- ==== Sys2Proof/Machine/StatusRead.lean ====
section
/-! DEFINITION. The operation `SRD` (44_status.md R140). -/

namespace Sys2Proof.Machine

/-- The response of `SRD`: the register's value, or OutOfBounds for an unmapped number; nothing else changes (R140). -/
def commitStatusRead (reg : Word) (s : State) : State :=
  match statusReg s.params.hasData reg with
  | some r => respond .ok .none (readStatus s r) s
  | none => raiseError .oob s

/-- `SRD reg` (R140). -/
def execSrd (reg : Word) (s : State) : Host.Outcome State Fault Refusal := complete (commitStatusRead reg s)

end Sys2Proof.Machine
end

