-- ==== Sys2Proof/Machine/Write.lean ====
section
/-! DEFINITION. The write reference `WR` (43_write.md). -/

namespace Sys2Proof.Machine

/-- Write-through on a hit, write-around on a miss, of an address in range (43_write.md R130 steps 2 to 4): the memory word
is written either way, by one transfer at the raw word address (20_memory.md R63). -/
def writeReference (a : Addr) (v : Word) (s : State) : State := commitWrite (decodeAddress a) v (s.writeTransfer a v)

/-- `WR addr, wdata` (43_write.md R130); an illegal operation in the basic variant, whatever its address (R139, 60_exceptions.md
R174). -/
def execWr (addr wdata : Word) (s : State) : Host.Outcome State Fault Refusal :=
  if s.params.hasData then
    if inMemory addr then complete (writeReference (lowAddr addr) wdata s) else complete (raiseError .oob s)
  else complete (raiseError .illegal s)

end Sys2Proof.Machine
end

