-- ==== Sys2Proof/Machine/Dispatch.lean ====
section
/-! DEFINITION. One arm per operation: the state change and response of one accepted operation (00_scope.md R13). -/

namespace Sys2Proof.Machine

/-- The operation-level meaning of an operation, from the state in which its request has been accepted. -/
def exec (i : Instr) (s : State) : Host.Outcome State Fault Refusal :=
  match i with
  | .rd addr => Sys2Proof.Machine.execRd addr s
  | .wr addr wdata => Sys2Proof.Machine.execWr addr wdata s
  | .dec addr => Sys2Proof.Machine.execDec addr s
  | .srd reg => Sys2Proof.Machine.execSrd reg s
  | .reserved0 => Sys2Proof.Machine.execReserved0 s
  | .reserved5 => Sys2Proof.Machine.execReserved5 s
  | .reserved6 => Sys2Proof.Machine.execReserved6 s
  | .reserved7 => Sys2Proof.Machine.execReserved7 s

end Sys2Proof.Machine
end

