-- ==== Sys2Proof/Machine/Fsm.lean ====
section
/-! DEFINITION. The signal level: the control FSM, one rising edge of `clk` at a time (45_control_fsm.md R150 to R159), and
the block's outputs (R151). It is written from the transition table and shares with the operation level only the effects of a
commit; that it refines the operation level (R160) is a statement. -/

namespace Sys2Proof.Machine

/-- The block's inputs as sampled at one rising edge (30_encoding.md R80, R81; 20_memory.md R60). `mem_rdata` is not among
them: the memory drives `Mem[mem_addr]` (70_reset_and_hazards.md R197). -/
structure Pins where
  rst : Bool
  reqValid : Bool
  reqOp : OpCode
  reqAddr : Word
  reqWdata : Word
  memReady : Bool
deriving DecidableEq, Repr

/-- The operation in the latches. -/
def latchedInstr (s : State) : Instr := decodeFields s.opQ s.addrQ s.wdataQ

/-- The decoded latched address, `decode(addr_q[9:0])` (R151). -/
def latchedDecoded (s : State) : Decoded := decodeAddress (lowAddr s.addrQ)

/-- Enter an FSM state. -/
def State.goto (s : State) (f : Fsm) : State := { s with fsm := f }

/-- The edge out of `S_EXEC`: the conditions in the order of the table's rows, illegal first, then out of bounds, then the
operation (R152, R155; 60_exceptions.md R174). -/
def edgeExec (s : State) : State :=
  if Instr.legal s.params.hasData (latchedInstr s) then
    if operandInRange s.params.hasData (latchedInstr s) then
      match latchedInstr s with
      | .dec addr => (commitDecode (lowAddr addr) s).goto .sResp
      | .srd reg => (commitStatusRead reg s).goto .sResp
      | .rd _ =>
        if isHit (s.line (latchedDecoded s).line) (latchedDecoded s) then (commitReadHit (latchedDecoded s) s).goto .sResp
        else if s.params.hasData then s.goto .sFill0
        else (commitBasicMiss (latchedDecoded s) s).goto .sResp
      | .wr _ _ => s.goto .sWmem
      | .reserved0 => (raiseError .illegal s).goto .sResp
      | .reserved5 => (raiseError .illegal s).goto .sResp
      | .reserved6 => (raiseError .illegal s).goto .sResp
      | .reserved7 => (raiseError .illegal s).goto .sResp
    else (raiseError .oob s).goto .sResp
  else (raiseError .illegal s).goto .sResp

/-- `mem_addr` of read transfer k of a refill: the latched block index beside k (R151). -/
def fillAddr (s : State) (k : Offset) : Addr := wordAddress (latchedDecoded s).blockIndex k

/-- The edge of read transfer k of a refill, for k below 3: `fb[k] <- mem_rdata` (R152). -/
def edgeFill (k : Fin 3) (next : Fsm) (s : State) : State :=
  let a := fillAddr s (BitVec.ofNat 2 k.val)
  ((s.readTransfer a).setFb k (s.mem.read a)).goto next

/-- The block at the edge of the fourth read transfer: the fill buffer and `mem_rdata` (R157). -/
def filledBlock (s : State) : Vector Word 4 := #v[s.fb[0], s.fb[1], s.fb[2], s.mem.read (fillAddr s 3)]

/-- The edge of the fourth read transfer, which commits the refill (R157). -/
def edgeFillLast (s : State) : State :=
  (commitFill (latchedDecoded s) (filledBlock s) (s.readTransfer (fillAddr s 3))).goto .sResp

/-- The edge of the write transfer, which commits the write (R158). -/
def edgeWrite (s : State) : State :=
  (commitWrite (latchedDecoded s) s.wdataQ (s.writeTransfer (lowAddr s.addrQ) s.wdataQ)).goto .sResp

/-- One rising edge of `clk` (R152). `rst` overrides every row, so that no transfer coincides with it
(70_reset_and_hazards.md R192). -/
def clockEdge (p : Pins) (s : State) : State :=
  if p.rst then applyRst s
  else
    match s.fsm with
    | .sIdle => if p.reqValid then accept p.reqOp p.reqAddr p.reqWdata s else s
    | .sExec => edgeExec s
    | .sFill0 => if p.memReady then edgeFill 0 .sFill1 s else s
    | .sFill1 => if p.memReady then edgeFill 1 .sFill2 s else s
    | .sFill2 => if p.memReady then edgeFill 2 .sFill3 s else s
    | .sFill3 => if p.memReady then edgeFillLast s else s
    | .sWmem => if p.memReady then edgeWrite s else s
    | .sResp => s.goto .sIdle

/-- The block's outputs in one cycle (R151). -/
structure Outputs where
  reqReady : Bool
  rspValid : Bool
  rspStatus : Status
  rspOutcome : RefOutcome
  rspRdata : Word
  memValid : Bool
  memWe : Bool
  memAddr : Addr
  memWdata : Word
deriving DecidableEq, Repr

/-- The FSM states in which the block asks for a transfer (20_memory.md R60). -/
def asksTransfer : Fsm → Bool
  | .sFill0 => true
  | .sFill1 => true
  | .sFill2 => true
  | .sFill3 => true
  | .sWmem => true
  | .sIdle => false
  | .sExec => false
  | .sResp => false

/-- `mem_addr` (R151); of no meaning where no transfer is asked for (entry 13). -/
def memAddrOut (s : State) : Addr :=
  match s.fsm with
  | .sFill0 => fillAddr s 0
  | .sFill1 => fillAddr s 1
  | .sFill2 => fillAddr s 2
  | .sFill3 => fillAddr s 3
  | .sWmem => lowAddr s.addrQ
  | .sIdle => Config.idleMemAddr 0
  | .sExec => Config.idleMemAddr 1
  | .sResp => Config.idleMemAddr 7

/-- The outputs are functions of `fsm`, the latches and `rst` alone (R151). -/
def outputs (rst : Bool) (s : State) : Outputs where
  reqReady := decide (s.fsm = .sIdle) && !rst
  rspValid := decide (s.fsm = .sResp) && !rst
  rspStatus := s.rspStatusQ
  rspOutcome := s.rspOutcomeQ
  rspRdata := s.rspRdataQ
  memValid := asksTransfer s.fsm && !rst
  memWe := decide (s.fsm = .sWmem)
  memAddr := memAddrOut s
  memWdata := s.wdataQ

/-- A sequence of rising edges. -/
def runEdges : List Pins → State → State
  | [], s => s
  | p :: ps, s => runEdges ps (clockEdge p s)

/-- In how many of the cycles that end at these edges a response is given (30_encoding.md R86). -/
def responsesGiven : List Pins → State → Nat
  | [], _ => 0
  | p :: ps, s => (if (outputs p.rst s).rspValid then 1 else 0) + responsesGiven ps (clockEdge p s)

/-- The pins of an edge with no reset, no request, and a memory that is ready. -/
def quietPins : Pins := ⟨false, false, 0, 0, 0, true⟩

/-- The operation in progress runs to its end with a memory that answers (R152): from any FSM state the block is idle after
six such edges. -/
def completeInFlight (s : State) : State := runEdges (List.replicate 6 quietPins) s

end Sys2Proof.Machine
end

