-- ==== Sys2Proof/Machine/Step.lean ====
section
/-! DEFINITION. One step of the machine at the operation level (00_scope.md R13): the next act of the requester or the
platform, performed whole (entries 7 to 9, 11). -/

namespace Sys2Proof.Machine

/-- One step. Idle, the block takes the next stimulus: none (`req_valid == 0`, 45_control_fsm.md R152: nothing happens), a
request, which is accepted, decoded and performed as one atomic step (20_memory.md R55), or a reset. With an operation in
progress no request can be accepted (30_encoding.md R83): the operation runs to its end. -/
def step (s : State) : Host.Outcome State Fault Refusal :=
  if s.fsm = .sIdle then
    match s.stimuli with
    | [] => .next s
    | .request w :: rest => exec (decode w) (acceptWord w { s with stimuli := rest })
    | .rst :: rest => .next (applyRst { s with stimuli := rest })
  else .next (completeInFlight s)

/-- The state in which the very next step accepts and runs the given table word: the block idle and the word the next thing
the requester presents (entry 9). -/
def State.withFetchWord (s : State) (nbits w : Nat) : State :=
  { s with fsm := .sIdle, stimuli := .request (tableRequest nbits w) :: s.stimuli }

end Sys2Proof.Machine
end

