-- ==== Sys2Proof/Machine/Trace.lean ====
section
/-! DEFINITION. Traces of operations: the pseudo-operations (30_encoding.md R95), the directive RESET, and the textual syntax
(R94), read from the characters of a line. Entry 18. -/

namespace Sys2Proof.Machine

/-- What one line of a trace asks for (R94, R95). -/
inductive TraceLine where
  | op (i : Instr)
  | reset
  | counters
  | line (i : LineIndex)
  | snapshot
deriving DecidableEq, Repr

/-- `COUNTERS` (R95): hits, misses, evictions. -/
def counterReads : List Instr := [.srd 0x000, .srd 0x001, .srd 0x002]

/-- `LINE i` (R95): the metadata register and, in the extended variant, the four data registers. -/
def lineReads (hasData : Bool) (i : LineIndex) : List Instr :=
  let base : Word := 0x040 + 4 * i.setWidth 32
  .srd (0x010 + i.setWidth 32) ::
    (if hasData then [.srd base, .srd (base + 1), .srd (base + 2), .srd (base + 3)] else [])

/-- `SNAPSHOT` (R95): lines 0 to 15, in that order. -/
def snapshotReads (hasData : Bool) : List Instr :=
  (List.range 16).flatMap fun i => lineReads hasData (BitVec.ofNat 4 i)

/-- The operations as the requester presents them (R94: "each line assembles to the request word of rule R84"). -/
def present (is : List Instr) : List Stimulus := is.map fun i => .request (encode i)

/-- What a line makes the requester and the platform do. -/
def assemble (hasData : Bool) : TraceLine → List Stimulus
  | .op i => present [i]
  | .reset => [.rst]
  | .counters => present counterReads
  | .line i => present (lineReads hasData i)
  | .snapshot => present (snapshotReads hasData)

/-- An expected response, `-> status outcome rdata`; no rdata stands for `*`, "any value" (R94). -/
structure Expected where
  status : Status
  outcome : RefOutcome
  rdata : Option Word
deriving DecidableEq, Repr

/-- A response is as expected (R94). -/
def Expected.meets (e : Expected) (st : Status) (o : RefOutcome) (rdata : Word) : Bool :=
  decide (e.status = st) && decide (e.outcome = o) && (match e.rdata with | some v => decide (v = rdata) | none => true)

/-- Close the token whose characters are held in reverse. -/
def closeToken (cur : List Char) (rest : List (List Char)) : List (List Char) :=
  match cur with
  | [] => rest
  | _ :: _ => cur.reverse :: rest

/-- The tokens of a line: separated by spaces and tabs, a comma a token of its own, `;` starting a comment (R94). -/
def tokens : List Char → List Char → List (List Char)
  | [], cur => closeToken cur []
  | c :: cs, cur =>
    if c = ';' then closeToken cur []
    else if c = ' ' ∨ c = '\t' then closeToken cur (tokens cs [])
    else if c = ',' then closeToken cur ([','] :: tokens cs [])
    else tokens cs (c :: cur)

/-- The value of a digit in a base up to 16. -/
def digitValue (base : Nat) (c : Char) : Option Nat :=
  let n := c.toNat
  let v := if 48 ≤ n ∧ n ≤ 57 then n - 48
    else if 65 ≤ n ∧ n ≤ 70 then n - 55
    else if 97 ≤ n ∧ n ≤ 102 then n - 87
    else base
  if v < base then some v else none

/-- The value of a run of digits after what has been read of it. -/
def digitsValue (base : Nat) : List Char → Nat → Option Nat
  | [], acc => some acc
  | c :: cs, acc =>
    match digitValue base c with
    | some v => digitsValue base cs (acc * base + v)
    | none => none

/-- An unsigned numeral below 2^32, decimal or `0x` hexadecimal (R94). -/
def numeral : List Char → Option Word
  | [] => none
  | '0' :: 'x' :: c :: cs => bounded (digitsValue 16 (c :: cs) 0)
  | c :: cs => bounded (digitsValue 10 (c :: cs) 0)
where
  bounded : Option Nat → Option Word
    | some n => if n < 2 ^ 32 then some (BitVec.ofNat 32 n) else none
    | none => none

/-- The operation at the head of a line's tokens, and the tokens after it (R94, R95). -/
def parseOperation : List (List Char) → Option (TraceLine × List (List Char))
  | ['R', 'D'] :: a :: ts => (numeral a).map fun v => (.op (.rd v), ts)
  | ['W', 'R'] :: a :: [','] :: w :: ts =>
    match numeral a, numeral w with
    | some av, some wv => some (.op (.wr av wv), ts)
    | _, _ => none
  | ['D', 'E', 'C'] :: a :: ts => (numeral a).map fun v => (.op (.dec v), ts)
  | ['S', 'R', 'D'] :: a :: ts => (numeral a).map fun v => (.op (.srd v), ts)
  | ['R', 'E', 'S', 'E', 'T'] :: ts => some (.reset, ts)
  | ['C', 'O', 'U', 'N', 'T', 'E', 'R', 'S'] :: ts => some (.counters, ts)
  | ['S', 'N', 'A', 'P', 'S', 'H', 'O', 'T'] :: ts => some (.snapshot, ts)
  | ['L', 'I', 'N', 'E'] :: a :: ts =>
    match numeral a with
    | some v => if v.toNat ≤ 15 then some (.line (v.setWidth 4), ts) else none
    | none => none
  | _ => none

/-- The name of a status (R87). -/
def parseStatus : List Char → Option Status
  | ['O', 'K'] => some .ok
  | ['O', 'O', 'B'] => some .oob
  | ['I', 'L', 'L', 'E', 'G', 'A', 'L'] => some .illegal
  | _ => none

/-- The name of an outcome (R88). -/
def parseOutcome : List Char → Option RefOutcome
  | ['N', 'O', 'N', 'E'] => some .none
  | ['H', 'I', 'T'] => some .hit
  | ['M', 'I', 'S', 'S'] => some .miss
  | ['M', 'I', 'S', 'S', '_', 'E', 'V', 'I', 'C', 'T'] => some .missEvict
  | _ => none

/-- The expected word, or `*` (R94). -/
def parseRdata : List Char → Option (Option Word)
  | ['*'] => some none
  | t => (numeral t).map some

/-- What follows the operation on its line: nothing, or an expected response (R94). -/
def parseExpected : List (List Char) → Option (Option Expected)
  | [] => some none
  | [['-', '>'], st, o, v] =>
    match parseStatus st, parseOutcome o, parseRdata v with
    | some st, some o, some v => some (some ⟨st, o, v⟩)
    | _, _, _ => none
  | _ => none

/-- One line of a trace, given as its characters (R94). That an expected response may stand after any line, `RESET` and the
pseudo-operations among them, is the model's choice, since R94 and R95 do not say (DESIGN CHOICE, safe: entry 18). -/
def parseLine (text : List Char) : Option (TraceLine × Option Expected) :=
  match parseOperation (tokens text []) with
  | some (l, ts) => (parseExpected ts).map fun e => (l, e)
  | none => none

end Sys2Proof.Machine
end

