-- ==== Sys2Proof/Safety.lean ====
section
/-! DEFINITION. The terms in which statements speak of the machine: the history of the memory interface, the invariants of
10_state.md R36 to R39 as one predicate that every step and every clock edge keeps, and the accounts of a run. -/

namespace Sys2Proof.Machine

/-- What one transfer makes of the word at `a`. -/
def afterTransfer (a : Addr) (v : Word) : Transfer → Word
  | .write b w => if b = a then w else v
  | .read _ _ => v

/-- The word the history says address `a` holds: the value of the most recent write transfer to it, or `MEM_INIT[a]` if there
has been none (20_memory.md R70). -/
def lastWritten (h : List Transfer) (a : Addr) : Word := h.foldl (afterTransfer a) (Config.memInit a)

/-- Every read transfer of the history gave the word the memory then held (20_memory.md R62). -/
def ReadsCoherent (h : List Transfer) : Prop :=
  ∀ before a v after, h = before ++ .read a v :: after → v = lastWritten before a

/-- A refill is in progress in which the first `n` words have arrived: the latches hold an `RD` in range of the extended
variant whose line does not hit, and the fill buffer holds those words of memory (45_control_fsm.md R152). -/
structure Refilling (s : State) (n : Nat) : Prop where
  hasData : s.params.hasData = true
  isRead : latchedInstr s = .rd s.addrQ
  inRange : inMemory s.addrQ = true
  noHit : isHit (s.line (latchedDecoded s).line) (latchedDecoded s) = false
  arrived : ∀ k : Fin 3, k.val < n → s.fb[k.val] = s.mem.read (fillAddr s (BitVec.ofNat 2 k.val))

/-- A write is in progress: the latches hold a `WR` in range of the extended variant (45_control_fsm.md R152). -/
structure Writing (s : State) : Prop where
  hasData : s.params.hasData = true
  isWrite : latchedInstr s = .wr s.addrQ s.wdataQ
  inRange : inMemory s.addrQ = true

/-- What the FSM state says of the operation in progress (45_control_fsm.md R152). -/
def InFlight (s : State) : Prop :=
  match s.fsm with
  | .sIdle => True
  | .sExec => True
  | .sFill0 => Refilling s 0
  | .sFill1 => Refilling s 1
  | .sFill2 => Refilling s 2
  | .sFill3 => Refilling s 3
  | .sWmem => Writing s
  | .sResp => True

/-- The invariant of the machine. -/
structure Inv (s : State) : Prop where
  /-- The memory is in its canonical form. -/
  memoryForm : s.mem.wf = true
  /-- The memory holds what the history of transfers left in it (20_memory.md R62, R63). -/
  memoryIsHistory : ∀ a, s.mem.read a = lastWritten s.transfers a
  /-- Every read transfer gave the word the memory then held (20_memory.md R62). -/
  readsCoherent : ReadsCoherent s.transfers
  /-- 10_state.md R36. -/
  blockIndexAgrees : ∀ i, (s.line i).valid = true → (s.line i).blockIndex = (s.line i).tag ++ i
  /-- 10_state.md R37: a valid line is a copy of its block. -/
  copies : s.params.hasData = true → ∀ i, (s.line i).valid = true → ∀ w : Offset,
    (s.line i).data[w.toNat]'w.isLt = s.mem.read (wordAddress (s.line i).blockIndex w)
  /-- 10_state.md R38. -/
  evictionsBounded : s.evictions.toNat ≤ s.misses.toNat
  /-- 20_memory.md R67: the basic variant has no memory and makes no transfer. -/
  basicHasNoMemory : s.params.hasData = false → s.mem = [] ∧ s.transfers = []
  /-- 45_control_fsm.md R152. -/
  inFlight : InFlight s

/-- What the operation level says of everything but the FSM state and the registers of 10_state.md R34: lines, counters,
memory and its history. -/
structure SameArchitecture (s t : State) : Prop where
  lines : t.lines = s.lines
  hits : t.hits = s.hits
  misses : t.misses = s.misses
  evictions : t.evictions = s.evictions
  mem : t.mem = s.mem
  transfers : t.transfers = s.transfers

/-- What an operation leaves alone whatever it is: the parameters, the requester's further stimuli, and the latches, which the
acceptance has loaded before the operation is performed (30_encoding.md R82). -/
structure SameRequestSide (s t : State) : Prop where
  params : t.params = s.params
  stimuli : t.stimuli = s.stimuli
  opQ : t.opQ = s.opQ
  addrQ : t.addrQ = s.addrQ
  wdataQ : t.wdataQ = s.wdataQ

/-- A counter after one event, or none: it rises by one and sticks at `0xFFFFFFFF` (10_state.md R31). -/
def counted (c : Word) (event : Bool) : Word := if event = true ∧ c ≠ 0xFFFFFFFF then c + 1 else c

/-- The three counters after an operation, given which of the three events it was (41_lookup_fill.md R115). -/
structure Counted (s t : State) (hit miss evict : Bool) : Prop where
  hits : t.hits = counted s.hits hit
  misses : t.misses = counted s.misses miss
  evictions : t.evictions = counted s.evictions evict

/-- The response in the response registers (30_encoding.md R86). -/
structure Responds (t : State) (st : Status) (o : RefOutcome) (rdata : Word) : Prop where
  status : t.rspStatusQ = st
  outcome : t.rspOutcomeQ = o
  rdata : t.rspRdataQ = rdata

/-- The state after an operation that changes nothing but the response it gives: the whole of what `DEC`, `SRD` and every error
do (40_address_decode.md R105, 44_status.md R140, 60_exceptions.md R171). -/
def onlyResponds (s : State) (st : Status) (o : RefOutcome) (rdata : Word) : State :=
  { s with fsm := .sIdle, rspStatusQ := st, rspOutcomeQ := o, rspRdataQ := rdata }

/-- What a reset leaves of the block itself, as far as 10_state.md R40 states it: every line invalid, the counters at 0, the FSM
in `S_IDLE`. -/
structure ResetValues (s : State) : Prop where
  linesInvalid : ∀ i : LineIndex, (s.line i).valid = false
  hits : s.hits = 0
  misses : s.misses = 0
  evictions : s.evictions = 0
  fsm : s.fsm = .sIdle

/-- The transfers of an operation, in order (20_memory.md R65). -/
def transfersOf (i : Instr) (s : State) : List Transfer :=
  match i with
  | .rd addr =>
    let d := decodeAddress (lowAddr addr)
    let l := s.line d.line
    if s.params.hasData = true ∧ addr.toNat ≤ 1023 ∧ ¬ (l.valid = true ∧ l.tag = d.tag) then
      [.read (wordAddress d.blockIndex 0) (s.mem.read (wordAddress d.blockIndex 0)),
       .read (wordAddress d.blockIndex 1) (s.mem.read (wordAddress d.blockIndex 1)),
       .read (wordAddress d.blockIndex 2) (s.mem.read (wordAddress d.blockIndex 2)),
       .read (wordAddress d.blockIndex 3) (s.mem.read (wordAddress d.blockIndex 3))]
    else []
  | .wr addr v => if s.params.hasData = true ∧ addr.toNat ≤ 1023 then [.write (lowAddr addr) v] else []
  | .dec _ => []
  | .srd _ => []
  | .reserved0 => []
  | .reserved5 => []
  | .reserved6 => []
  | .reserved7 => []

/-- A request is a reference that ends `OK`: an `RD` or, in the extended variant, a `WR`, whose address is in range. -/
def isOkReference (hasData : Bool) (w : RequestWord) : Bool :=
  match decode w with
  | .rd addr => inMemory addr
  | .wr addr _ => hasData && inMemory addr
  | .dec _ => false
  | .srd _ => false
  | .reserved0 => false
  | .reserved5 => false
  | .reserved6 => false
  | .reserved7 => false

/-- The outcomes of the first `k` operations of a run, in order. -/
def outcomesOf : Nat → State → List RefOutcome
  | 0, _ => []
  | k + 1, s =>
    match step s with
    | .next t => t.rspOutcomeQ :: outcomesOf k t
    | .fault _ => []
    | .refused _ => []

/-- The first `n` of a sequence of rising edges. -/
def firstEdges (later : Nat → Pins) (n : Nat) : List Pins := (List.range n).map later

/-- The memory's third obligation (70_reset_and_hazards.md R197): from state `s` on, every transfer the block asks for is
granted in the end. -/
def MemoryGrants (s : State) (later : Nat → Pins) : Prop :=
  ∀ n : Nat, (outputs false (runEdges (firstEdges later n) s)).memValid = true → ∃ m : Nat, n ≤ m ∧ (later m).memReady = true

/-- A stimulus that writes word `a` of the memory: an accepted `WR` to it. -/
def writesWord (a : Word) : Stimulus → Bool
  | .request w => (match decode w with | .wr addr _ => addr == a | _ => false)
  | .rst => false

end Sys2Proof.Machine
end

