-- ==== Sys2Proof/Certificates/Slice0/Obligations.lean ====
section
/-! DEFINITION. The statements for the provers. Each docstring names the rules of spec/ it formalises, or says that it is the
model's own choice and names the log entry. -/

open Sys2Proof Sys2Proof.Machine

/-! ### Encoding -/

/-- 30_encoding.md R84, R85, R94, R97: the decoder reads back every operation, with every operand, from its request word. -/
def Obligations.DecodeUndoesEncode : Prop := ∀ i : Instr, decode (encode i) = i

/-- 30_encoding.md R84, R91, R94: the decoder drops exactly the fields an operation ignores: writing out what it read gives the
word back, with zero in `wdata` where the code is not `WR`, as R94 has it, and zero in `addr` where the code is reserved. That
the encoder writes zero in the `addr` of a reserved code is the model's own choice (entry 15). -/
def Obligations.DecodeDropsOnlyIgnoredFields : Prop :=
  ∀ w : RequestWord, encode (decode w) =
    requestWord (reqOp w)
      (if reqOp w = 0b000 ∨ reqOp w = 0b101 ∨ reqOp w = 0b110 ∨ reqOp w = 0b111 then 0 else reqAddr w)
      (if reqOp w = 0b010 then reqWdata w else 0)

/-- 30_encoding.md R85: the table of operation codes. -/
def Obligations.EachCodeNamesItsOperation : Prop :=
  ∀ a v : Word,
    decode (requestWord 0b000 a v) = .reserved0 ∧ decode (requestWord 0b001 a v) = .rd a ∧
    decode (requestWord 0b010 a v) = .wr a v ∧ decode (requestWord 0b011 a v) = .dec a ∧
    decode (requestWord 0b100 a v) = .srd a ∧ decode (requestWord 0b101 a v) = .reserved5 ∧
    decode (requestWord 0b110 a v) = .reserved6 ∧ decode (requestWord 0b111 a v) = .reserved7

/-- A few request words of 95_test_vectors.md, as the spec writes them out, decode to the operations they stand for. -/
def Obligations.WordsOfTheSpecDecode : Prop :=
  decode 0x10000000500000000#67 = .rd 5 ∧ decode 0x2000000050000002A#67 = .wr 5 42 ∧
  decode 0x3000002A7DEADBEEF#67 = .dec 679 ∧ decode 0x40000001100000000#67 = .srd 0x11 ∧
  decode 0x00000000000000000#67 = .reserved0 ∧ decode 0x50000000500000000#67 = .reserved5 ∧
  decode 0x60000000500000009#67 = .reserved6 ∧ decode 0x7FFFFFFFF00000000#67 = .reserved7

/-- 30_encoding.md R91: `wdata` is ignored by every operation but `WR`: two requests that differ there alone give the same step,
but for the latch that holds the field. -/
def Obligations.IgnoredWriteDataChangesNothing : Prop :=
  ∀ (s : State) (op : OpCode) (addr v w : Word) (rest : List Stimulus), s.fsm = .sIdle → op ≠ 0b010 →
    ∃ t : State,
      step { s with stimuli := .request (requestWord op addr v) :: rest } = .next { t with wdataQ := v } ∧
      step { s with stimuli := .request (requestWord op addr w) :: rest } = .next { t with wdataQ := w }

/-- 30_encoding.md R87, R88, R96: where the fields of a response word stand and what codes they hold; status `0b11` is never
produced. -/
def Obligations.ResponseWordLayout : Prop :=
  ∀ s : State,
    (responseWord s).extractLsb' 0 32 = s.rspRdataQ ∧
    (responseWord s).extractLsb' 32 2 =
      (match s.rspOutcomeQ with | .none => 0b00 | .hit => 0b01 | .miss => 0b10 | .missEvict => 0b11) ∧
    (responseWord s).extractLsb' 34 2 = (match s.rspStatusQ with | .ok => 0b00 | .oob => 0b01 | .illegal => 0b10) ∧
    (responseWord s).extractLsb' 34 2 ≠ 0b11

/-- 30_encoding.md R95: the pseudo-operations are these sequences of `SRD`. -/
def Obligations.PseudoOperationsAreSrdSequences : Prop :=
  counterReads = [.srd 0x000, .srd 0x001, .srd 0x002] ∧
  (∀ i : LineIndex, lineReads false i = [.srd (BitVec.ofNat 32 (0x010 + i.toNat))]) ∧
  (∀ i : LineIndex, lineReads true i = [.srd (BitVec.ofNat 32 (0x010 + i.toNat)),
    .srd (BitVec.ofNat 32 (0x040 + 4 * i.toNat)), .srd (BitVec.ofNat 32 (0x040 + 4 * i.toNat + 1)),
    .srd (BitVec.ofNat 32 (0x040 + 4 * i.toNat + 2)), .srd (BitVec.ofNat 32 (0x040 + 4 * i.toNat + 3))]) ∧
  (∀ b : Bool, snapshotReads b = lineReads b 0 ++ lineReads b 1 ++ lineReads b 2 ++ lineReads b 3 ++ lineReads b 4 ++
    lineReads b 5 ++ lineReads b 6 ++ lineReads b 7 ++ lineReads b 8 ++ lineReads b 9 ++ lineReads b 10 ++ lineReads b 11 ++
    lineReads b 12 ++ lineReads b 13 ++ lineReads b 14 ++ lineReads b 15)

/-! ### The address decoder -/

/-- 40_address_decode.md R100: the source's formulas. -/
def Obligations.DecoderIsTheSourceFormulas : Prop :=
  ∀ a : Addr,
    (decodeAddress a).offset.toNat = a.toNat &&& 0b11 ∧ (decodeAddress a).blockIndex.toNat = a.toNat >>> 2 ∧
    (decodeAddress a).line.toNat = (decodeAddress a).blockIndex.toNat &&& 0b1111 ∧
    (decodeAddress a).tag.toNat = a.toNat >>> 6

/-- 40_address_decode.md R101: the decomposition is lossless, in both of the source's spellings, and a bijection. -/
def Obligations.DecompositionRoundTrip : Prop :=
  (∀ a : Addr,
    a.toNat = (decodeAddress a).tag.toNat * 64 + (decodeAddress a).line.toNat * 4 + (decodeAddress a).offset.toNat ∧
    a.toNat =
      ((decodeAddress a).tag.toNat <<< 6) ||| ((decodeAddress a).line.toNat <<< 2) ||| (decodeAddress a).offset.toNat) ∧
  (∀ (t : BitVec 4) (l : LineIndex) (o : Offset),
    ∃! a : Addr, (decodeAddress a).tag = t ∧ (decodeAddress a).line = l ∧ (decodeAddress a).offset = o)

/-- 40_address_decode.md R102: the block index is the tag and the line side by side, and with the offset it is the address. -/
def Obligations.BlockIndexIsTagBesideLine : Prop :=
  ∀ a : Addr,
    (decodeAddress a).blockIndex = (decodeAddress a).tag ++ (decodeAddress a).line ∧
    (decodeAddress a).blockIndex.toNat = (decodeAddress a).tag.toNat * 16 + (decodeAddress a).line.toNat ∧
    (decodeAddress a).line = (decodeAddress a).blockIndex.extractLsb' 0 4 ∧
    (decodeAddress a).tag = (decodeAddress a).blockIndex.extractLsb' 4 4 ∧
    a.toNat = (decodeAddress a).blockIndex.toNat * 4 + (decodeAddress a).offset.toNat

/-- 40_address_decode.md R106: the line and the tag depend on the block alone, and the blocks that share a line are the sixteen
whose index has that line in its low bits. -/
def Obligations.LineSelectionDependsOnTheBlock : Prop :=
  (∀ a b : Addr, a >>> 2 = b >>> 2 →
    (decodeAddress a).line = (decodeAddress b).line ∧ (decodeAddress a).tag = (decodeAddress b).tag ∧
    (decodeAddress a).blockIndex = (decodeAddress b).blockIndex) ∧
  (∀ (b : BitVec 8) (w : Offset) (l : LineIndex),
    (decodeAddress (wordAddress b w)).line = l ↔ ∃ t : BitVec 4, b.toNat = l.toNat + 16 * t.toNat)

/-! ### DEC -/

/-- 40_address_decode.md R105, with its frame: the whole next state is given. -/
def Obligations.DecAnswersTheDecomposition : Prop :=
  ∀ (s : State) (addr : Word),
    (addr.toNat ≤ 1023 → ∃ r : Word,
      exec (.dec addr) s = .next (onlyResponds s .ok .none r) ∧
      r.extractLsb' 0 2 = (decodeAddress (lowAddr addr)).offset ∧
      r.extractLsb' 2 4 = (decodeAddress (lowAddr addr)).line ∧
      r.extractLsb' 6 4 = (decodeAddress (lowAddr addr)).tag ∧
      r.extractLsb' 10 8 = (decodeAddress (lowAddr addr)).blockIndex ∧
      r.extractLsb' 18 14 = 0 ∧
      r.extractLsb' 0 10 = addr.extractLsb' 0 10 ∧ r.extractLsb' 10 8 = addr.extractLsb' 2 8) ∧
    (1023 < addr.toNat → exec (.dec addr) s = .next (onlyResponds s .oob .none 0))

/-! ### SRD -/

/-- 44_status.md R142: the counters as they stand, and reading them changes nothing. -/
def Obligations.SrdReadsTheCounters : Prop :=
  ∀ s : State,
    exec (.srd 0x000) s = .next (onlyResponds s .ok .none s.hits) ∧
    exec (.srd 0x001) s = .next (onlyResponds s .ok .none s.misses) ∧
    exec (.srd 0x002) s = .next (onlyResponds s .ok .none s.evictions)

/-- 44_status.md R143: `LINE_META[i]`, field by field, masked for an invalid line; and what the invariant says of a valid
one. -/
def Obligations.SrdShowsLineMetadata : Prop :=
  ∀ (s : State) (i : LineIndex), ∃ r : Word,
    exec (.srd (BitVec.ofNat 32 (0x010 + i.toNat))) s = .next (onlyResponds s .ok .none r) ∧
    r.extractLsb' 0 1 = (if (s.line i).valid then 1 else 0) ∧
    r.extractLsb' 1 4 = (if (s.line i).valid then (s.line i).tag else 0) ∧
    r.extractLsb' 5 8 = (if (s.line i).valid then (s.line i).blockIndex else 0) ∧
    r.extractLsb' 13 2 = (if (s.line i).valid then (s.line i).lastOffset else 0) ∧
    r.extractLsb' 15 17 = 0 ∧
    (r = 0 ↔ (s.line i).valid = false) ∧
    (Inv s → (s.line i).valid = true →
      (s.line i).blockIndex.extractLsb' 0 4 = i ∧ (s.line i).blockIndex.extractLsb' 4 4 = (s.line i).tag)

/-- 44_status.md R144: `LINE_DATA[i][w]`, masked for an invalid line; for a valid one the invariant says it is the memory's
word. -/
def Obligations.SrdShowsLineData : Prop :=
  ∀ (s : State) (i : LineIndex) (w : Offset), s.params.hasData = true → ∃ r : Word,
    exec (.srd (BitVec.ofNat 32 (0x040 + 4 * i.toNat + w.toNat))) s = .next (onlyResponds s .ok .none r) ∧
    ((s.line i).valid = true → r = (s.line i).data[w.toNat]'w.isLt) ∧
    ((s.line i).valid = false → r = 0) ∧
    (Inv s → (s.line i).valid = true → r = s.mem.read (wordAddress (s.line i).blockIndex w))

/-- 44_status.md R140, R141: every number outside the map is out of bounds; in the basic variant the data registers are outside
it too. -/
def Obligations.SrdUnmappedIsOutOfBounds : Prop :=
  ∀ (s : State) (reg : Word),
    ((0x003 ≤ reg.toNat ∧ reg.toNat ≤ 0x00F) ∨ (0x020 ≤ reg.toNat ∧ reg.toNat ≤ 0x03F) ∨ 0x080 ≤ reg.toNat ∨
      (s.params.hasData = false ∧ 0x040 ≤ reg.toNat ∧ reg.toNat ≤ 0x07F)) →
    exec (.srd reg) s = .next (onlyResponds s .oob .none 0)

/-! ### Errors -/

/-- 60_exceptions.md R172, 30_encoding.md R90, 43_write.md R139: a reserved code, and `WR` in the basic variant whatever its
operands, answers ILLEGAL and changes nothing. -/
def Obligations.ReservedCodesAnswerIllegal : Prop :=
  ∀ (s : State) (i : Instr),
    (i = .reserved0 ∨ i = .reserved5 ∨ i = .reserved6 ∨ i = .reserved7 ∨
      (s.params.hasData = false ∧ ∃ addr v : Word, i = .wr addr v)) →
    exec i s = .next (onlyResponds s .illegal .none 0)

/-- 60_exceptions.md R170, R171, 42_read.md R123: a reference or a `DEC` above address 1023 answers OOB and changes nothing. -/
def Obligations.AddressesAbove1023AreOutOfBounds : Prop :=
  ∀ (s : State) (addr v : Word), 1023 < addr.toNat →
    exec (.rd addr) s = .next (onlyResponds s .oob .none 0) ∧
    exec (.dec addr) s = .next (onlyResponds s .oob .none 0) ∧
    (s.params.hasData = true → exec (.wr addr v) s = .next (onlyResponds s .oob .none 0))

/-- 60_exceptions.md R174: the order of the checks decides the status of every operation. -/
def Obligations.StatusFollowsTheOrderOfChecks : Prop :=
  ∀ (i : Instr) (s : State), ∃ t : State, exec i s = .next t ∧
    t.rspStatusQ =
      (if Instr.legal s.params.hasData i = false then .illegal
       else if operandInRange s.params.hasData i = false then .oob else .ok)

/-- 60_exceptions.md R171, R172, R175: an operation that does not end `OK` has changed nothing but the response. -/
def Obligations.ErrorsChangeNothing : Prop :=
  ∀ (i : Instr) (s t : State), exec i s = .next t → t.rspStatusQ ≠ .ok →
    t = onlyResponds s t.rspStatusQ .none 0

/-! ### RD -/

/-- 41_lookup_fill.md R117, R115, 42_read.md R121: a read hit of the extended variant, with its frame. -/
def Obligations.RdHitReturnsTheCachedWord : Prop :=
  ∀ (s : State) (addr : Word), s.params.hasData = true → addr.toNat ≤ 1023 →
    (s.line (decodeAddress (lowAddr addr)).line).valid = true →
    (s.line (decodeAddress (lowAddr addr)).line).tag = (decodeAddress (lowAddr addr)).tag →
    ∃ t : State, exec (.rd addr) s = .next t ∧
      Responds t .ok .hit ((s.line (decodeAddress (lowAddr addr)).line).data[(decodeAddress (lowAddr addr)).offset.toNat]'
        (decodeAddress (lowAddr addr)).offset.isLt) ∧
      t.line (decodeAddress (lowAddr addr)).line =
        { s.line (decodeAddress (lowAddr addr)).line with lastOffset := (decodeAddress (lowAddr addr)).offset } ∧
      (∀ j : LineIndex, j ≠ (decodeAddress (lowAddr addr)).line → t.line j = s.line j) ∧
      Counted s t true false false ∧ (∀ a : Addr, t.mem.read a = s.mem.read a) ∧ t.transfers = s.transfers ∧
      SameRequestSide s t ∧ t.fb = s.fb ∧ t.drawn = s.drawn ∧ t.fsm = .sIdle

/-- 41_lookup_fill.md R113 to R115, 42_read.md R120, R121, 20_memory.md R62, R66: a read miss of the extended variant, cold or
conflict, with its frame: the line is overwritten whole from memory, an eviction is counted when it was valid, four words are
fetched in ascending order, and the word returned is the one fetched. -/
def Obligations.RdMissFillsTheLine : Prop :=
  ∀ (s : State) (addr : Word), s.params.hasData = true → addr.toNat ≤ 1023 →
    ¬ ((s.line (decodeAddress (lowAddr addr)).line).valid = true ∧
       (s.line (decodeAddress (lowAddr addr)).line).tag = (decodeAddress (lowAddr addr)).tag) →
    ∃ t : State, exec (.rd addr) s = .next t ∧
      Responds t .ok (if (s.line (decodeAddress (lowAddr addr)).line).valid then .missEvict else .miss)
        (s.mem.read (lowAddr addr)) ∧
      (t.line (decodeAddress (lowAddr addr)).line).valid = true ∧
      (t.line (decodeAddress (lowAddr addr)).line).tag = (decodeAddress (lowAddr addr)).tag ∧
      (t.line (decodeAddress (lowAddr addr)).line).blockIndex = (decodeAddress (lowAddr addr)).blockIndex ∧
      (t.line (decodeAddress (lowAddr addr)).line).lastOffset = (decodeAddress (lowAddr addr)).offset ∧
      (∀ w : Offset, (t.line (decodeAddress (lowAddr addr)).line).data[w.toNat]'w.isLt =
        s.mem.read (BitVec.ofNat 10 ((decodeAddress (lowAddr addr)).blockIndex.toNat * 4 + w.toNat))) ∧
      (∀ j : LineIndex, j ≠ (decodeAddress (lowAddr addr)).line → t.line j = s.line j) ∧
      Counted s t false true (s.line (decodeAddress (lowAddr addr)).line).valid ∧
      (∀ a : Addr, t.mem.read a = s.mem.read a) ∧
      t.transfers = s.transfers ++ ([0, 1, 2, 3] : List Nat).map (fun k =>
        Transfer.read (BitVec.ofNat 10 ((decodeAddress (lowAddr addr)).blockIndex.toNat * 4 + k))
          (s.mem.read (BitVec.ofNat 10 ((decodeAddress (lowAddr addr)).blockIndex.toNat * 4 + k)))) ∧
      (∀ k : Fin 3, t.fb[k.val] =
        s.mem.read (BitVec.ofNat 10 ((decodeAddress (lowAddr addr)).blockIndex.toNat * 4 + k.val))) ∧
      SameRequestSide s t ∧ t.drawn = s.drawn ∧ t.fsm = .sIdle

/-- 42_read.md R124: a read of the basic variant has the same effect on metadata and counters, no memory is read and no data
written, and the word returned is a fresh free value (entry 4): the statement names it and says nothing of what it is. -/
def Obligations.RdOfTheBasicVariant : Prop :=
  ∀ (s : State) (addr : Word), s.params.hasData = false → addr.toNat ≤ 1023 →
    ∃ t : State, exec (.rd addr) s = .next t ∧
      (if (s.line (decodeAddress (lowAddr addr)).line).valid = true ∧
          (s.line (decodeAddress (lowAddr addr)).line).tag = (decodeAddress (lowAddr addr)).tag
       then Responds t .ok .hit (Config.any32 s.drawn) ∧ Counted s t true false false
       else Responds t .ok (if (s.line (decodeAddress (lowAddr addr)).line).valid then .missEvict else .miss)
              (Config.any32 s.drawn) ∧
            Counted s t false true (s.line (decodeAddress (lowAddr addr)).line).valid ∧
            (t.line (decodeAddress (lowAddr addr)).line).blockIndex = (decodeAddress (lowAddr addr)).blockIndex) ∧
      (t.line (decodeAddress (lowAddr addr)).line).valid = true ∧
      (t.line (decodeAddress (lowAddr addr)).line).tag = (decodeAddress (lowAddr addr)).tag ∧
      ((s.line (decodeAddress (lowAddr addr)).line).valid = true →
        (s.line (decodeAddress (lowAddr addr)).line).tag = (decodeAddress (lowAddr addr)).tag →
        (t.line (decodeAddress (lowAddr addr)).line).blockIndex =
          (s.line (decodeAddress (lowAddr addr)).line).blockIndex) ∧
      (t.line (decodeAddress (lowAddr addr)).line).lastOffset = (decodeAddress (lowAddr addr)).offset ∧
      (t.line (decodeAddress (lowAddr addr)).line).data = (s.line (decodeAddress (lowAddr addr)).line).data ∧
      (∀ j : LineIndex, j ≠ (decodeAddress (lowAddr addr)).line → t.line j = s.line j) ∧
      (∀ a : Addr, t.mem.read a = s.mem.read a) ∧ t.transfers = s.transfers ∧
      SameRequestSide s t ∧ t.fb = s.fb ∧ t.drawn = s.drawn + 1 ∧ t.fsm = .sIdle

/-! ### WR -/

/-- 43_write.md R131, R133, 20_memory.md R63: a write hit is write-through, with its frame, for both values of the open
parameter. -/
def Obligations.WrHitIsWriteThrough : Prop :=
  ∀ (s : State) (addr v : Word), s.params.hasData = true → addr.toNat ≤ 1023 →
    (s.line (decodeAddress (lowAddr addr)).line).valid = true →
    (s.line (decodeAddress (lowAddr addr)).line).tag = (decodeAddress (lowAddr addr)).tag →
    ∃ t : State, exec (.wr addr v) s = .next t ∧ Responds t .ok .hit 0 ∧
      (∀ w : Offset, (t.line (decodeAddress (lowAddr addr)).line).data[w.toNat]'w.isLt =
        if w = (decodeAddress (lowAddr addr)).offset then v
        else (s.line (decodeAddress (lowAddr addr)).line).data[w.toNat]'w.isLt) ∧
      (t.line (decodeAddress (lowAddr addr)).line).valid = true ∧
      (t.line (decodeAddress (lowAddr addr)).line).tag = (s.line (decodeAddress (lowAddr addr)).line).tag ∧
      (t.line (decodeAddress (lowAddr addr)).line).blockIndex =
        (s.line (decodeAddress (lowAddr addr)).line).blockIndex ∧
      (t.line (decodeAddress (lowAddr addr)).line).lastOffset =
        (if s.params.wrHitUpdatesLastOffset then (decodeAddress (lowAddr addr)).offset
         else (s.line (decodeAddress (lowAddr addr)).line).lastOffset) ∧
      (∀ j : LineIndex, j ≠ (decodeAddress (lowAddr addr)).line → t.line j = s.line j) ∧
      (∀ a : Addr, t.mem.read a = if a = lowAddr addr then v else s.mem.read a) ∧
      t.transfers = s.transfers ++ [.write (lowAddr addr) v] ∧
      Counted s t true false false ∧ SameRequestSide s t ∧ t.fb = s.fb ∧ t.drawn = s.drawn ∧ t.fsm = .sIdle

/-- 43_write.md R132, R134, 20_memory.md R63: a write miss, cold or conflict, is write-around, with its frame. -/
def Obligations.WrMissIsWriteAround : Prop :=
  ∀ (s : State) (addr v : Word), s.params.hasData = true → addr.toNat ≤ 1023 →
    ¬ ((s.line (decodeAddress (lowAddr addr)).line).valid = true ∧
       (s.line (decodeAddress (lowAddr addr)).line).tag = (decodeAddress (lowAddr addr)).tag) →
    ∃ t : State, exec (.wr addr v) s = .next t ∧ Responds t .ok .miss 0 ∧
      (∀ j : LineIndex, t.line j = s.line j) ∧
      (∀ a : Addr, t.mem.read a = if a = lowAddr addr then v else s.mem.read a) ∧
      t.transfers = s.transfers ++ [.write (lowAddr addr) v] ∧
      Counted s t false true false ∧ SameRequestSide s t ∧ t.fb = s.fb ∧ t.drawn = s.drawn ∧ t.fsm = .sIdle

/-- 43_write.md R134: after a write miss a read of the same address is still a miss, and returns the written word. -/
def Obligations.ReadAfterWriteMissStillMisses : Prop :=
  ∀ (s : State) (addr v : Word), s.params.hasData = true → addr.toNat ≤ 1023 →
    ¬ ((s.line (decodeAddress (lowAddr addr)).line).valid = true ∧
       (s.line (decodeAddress (lowAddr addr)).line).tag = (decodeAddress (lowAddr addr)).tag) →
    ∃ t u : State, exec (.wr addr v) s = .next t ∧ exec (.rd addr) t = .next u ∧
      u.rspOutcomeQ = (if (s.line (decodeAddress (lowAddr addr)).line).valid then .missEvict else .miss) ∧ u.rspRdataQ = v

/-! ### Rules over all operations -/

/-- 10_state.md R29: only a reference changes a line, and only the one its address selects; only `WR` changes a word of memory,
and only the one it names. -/
def Obligations.OneLineAndOneWordAtMost : Prop :=
  ∀ (i : Instr) (s t : State), exec i s = .next t →
    (∀ j : LineIndex, t.line j ≠ s.line j →
      ∃ addr : Word, addr.toNat ≤ 1023 ∧ (i = .rd addr ∨ ∃ v : Word, i = .wr addr v) ∧
        j = (decodeAddress (lowAddr addr)).line) ∧
    (∀ a : Addr, t.mem.read a ≠ s.mem.read a →
      ∃ addr v : Word, i = .wr addr v ∧ addr.toNat = a.toNat ∧ t.mem.read a = v)

/-- 10_state.md R23, R39: no operation invalidates a line, and only a read in range makes one valid. -/
def Obligations.OnlyAReadValidatesALine : Prop :=
  ∀ (i : Instr) (s t : State), exec i s = .next t → ∀ j : LineIndex,
    ((s.line j).valid = true → (t.line j).valid = true) ∧
    ((s.line j).valid = false → (t.line j).valid = true →
      ∃ addr : Word, i = .rd addr ∧ addr.toNat ≤ 1023 ∧ j = (decodeAddress (lowAddr addr)).line)

/-- 10_state.md R30, R31: an operation never lowers a counter, raises each by one at most, and moves none unless it is a
reference that ends `OK`. -/
def Obligations.CountersRiseByOneAtMost : Prop :=
  ∀ (i : Instr) (s t : State), exec i s = .next t →
    (s.hits.toNat ≤ t.hits.toNat ∧ t.hits.toNat ≤ s.hits.toNat + 1) ∧
    (s.misses.toNat ≤ t.misses.toNat ∧ t.misses.toNat ≤ s.misses.toNat + 1) ∧
    (s.evictions.toNat ≤ t.evictions.toNat ∧ t.evictions.toNat ≤ s.evictions.toNat + 1) ∧
    (¬ (t.hits = s.hits ∧ t.misses = s.misses ∧ t.evictions = s.evictions) →
      t.rspStatusQ = .ok ∧ ∃ addr : Word, i = .rd addr ∨ ∃ v : Word, i = .wr addr v)

/-- 10_state.md R31: the saturating increment, and why it cannot be told from an unbounded count that is read through
`min`. -/
def Obligations.CountersSaturate : Prop :=
  (∀ c : Word, satinc c = if c.toNat < 2 ^ 32 - 1 then c + 1 else c) ∧
  (∀ n : Nat, (satinc (BitVec.ofNat 32 (min n (2 ^ 32 - 1)))).toNat = min (n + 1) (2 ^ 32 - 1))

/-- 20_memory.md R65: the transfers each operation makes, in order. -/
def Obligations.TransfersOfEveryOperation : Prop :=
  ∀ (i : Instr) (s : State), ∃ t : State, exec i s = .next t ∧ t.transfers = s.transfers ++ transfersOf i s

/-- 41_lookup_fill.md R119 (c): a read in range leaves its line holding its block, and a read or, in the extended variant, a
write of any word of the block then hits. That the stored block index is the address's needs, on a hit, the invariant
(10_state.md R36). -/
def Obligations.AReadMakesItsBlockHit : Prop :=
  ∀ (s : State) (a b v : Word), a.toNat ≤ 1023 → b.toNat ≤ 1023 → a >>> 2 = b >>> 2 →
    ∃ t u : State, exec (.rd a) s = .next t ∧ exec (.rd b) t = .next u ∧ u.rspOutcomeQ = .hit ∧
      (t.line (decodeAddress (lowAddr a)).line).valid = true ∧
      (t.line (decodeAddress (lowAddr a)).line).tag = (decodeAddress (lowAddr a)).tag ∧
      (t.line (decodeAddress (lowAddr a)).line).lastOffset = (decodeAddress (lowAddr a)).offset ∧
      (Inv s → (t.line (decodeAddress (lowAddr a)).line).blockIndex = (decodeAddress (lowAddr a)).blockIndex) ∧
      (s.params.hasData = true → ∃ x : State, exec (.wr b v) t = .next x ∧ x.rspOutcomeQ = .hit)

/-- 41_lookup_fill.md R116, R119 (b): a read of another block of the same line always evicts. -/
def Obligations.ConflictingReadAlwaysEvicts : Prop :=
  ∀ (s : State) (a b : Word), a.toNat ≤ 1023 → b.toNat ≤ 1023 →
    (decodeAddress (lowAddr a)).line = (decodeAddress (lowAddr b)).line →
    (decodeAddress (lowAddr a)).tag ≠ (decodeAddress (lowAddr b)).tag →
    ∃ t u : State, exec (.rd a) s = .next t ∧ exec (.rd b) t = .next u ∧ u.rspOutcomeQ = .missEvict ∧
      Counted t u false true true ∧
      (u.line (decodeAddress (lowAddr a)).line).valid = true ∧
      (u.line (decodeAddress (lowAddr a)).line).tag = (decodeAddress (lowAddr b)).tag

/-- 41_lookup_fill.md R111: the three classes, exclusive and exhaustive, and the hit signal of R110 is the third. -/
def Obligations.ClassesOfAReference : Prop :=
  ∀ (l : CacheLine) (d : Decoded),
    (classify l d = .coldMiss ↔ l.valid = false) ∧
    (classify l d = .conflictMiss ↔ l.valid = true ∧ l.tag ≠ d.tag) ∧
    (classify l d = .hit ↔ l.valid = true ∧ l.tag = d.tag) ∧
    (classify l d = .hit ↔ isHit l d = true)

/-! ### Steps and reset -/

/-- The model's step (entries 7, 9): an idle block whose requester presents a request performs the operation the decoder reads
from it, from the state in which the request has been accepted (30_encoding.md R82). -/
def Obligations.StepRunsTheDecodedOperation : Prop :=
  ∀ (s : State) (w : RequestWord) (rest : List Stimulus), s.fsm = .sIdle → s.stimuli = .request w :: rest →
    step s = exec (decode w)
      { s with stimuli := rest, opQ := reqOp w, addrQ := reqAddr w, wdataQ := reqWdata w, fsm := .sExec }

/-- The model's step (entry 9): the word placed by `withFetchWord` is what the next step runs. -/
def Obligations.PlacedWordRunsNext : Prop :=
  ∀ (s : State) (nbits w : Nat) (i : Instr), decodeTableWord nbits w = some i →
    step (s.withFetchWord nbits w) = exec i (acceptWord (tableRequest nbits w) s)

/-- 45_control_fsm.md R152 (`S_IDLE` with no request: nothing), and the model's step (entries 9, 11) of a reset between
operations: the reset of R190. -/
def Obligations.StepIdlesOrResets : Prop :=
  ∀ s : State, s.fsm = .sIdle →
    (s.stimuli = [] → step s = .next s) ∧
    (∀ rest : List Stimulus, s.stimuli = .rst :: rest → step s = .next (applyRst { s with stimuli := rest }))

/-- The model's step: no state stops the machine, every step ends with the block idle, and none changes the parameters. That an
operation ends in `S_IDLE` and that nothing stops the block is 10_state.md R33, 60_exceptions.md R173, R176 and
70_reset_and_hazards.md R200; that a step is a whole operation, one found in flight among them, is the model's choice (entry 7),
as are parameters held in State (entry 3) and a memory that answers (entry 8). -/
def Obligations.EveryStepCompletes : Prop :=
  ∀ s : State, ∃ t : State, step s = .next t ∧ t.fsm = .sIdle ∧ t.params = s.params

/-- 10_state.md R40: what the power-up reset of either variant leaves, `State.reset` among them, and what a later reset leaves
of a running block. Only the values the rule gives are stated; the basic variant has no memory (20_memory.md R67). -/
def Obligations.ResetLeavesAnEmptyCache : Prop :=
  (ResetValues State.reset ∧ ∀ a : Addr, State.reset.mem.read a = Config.memInit a) ∧
  (∀ p : Params, ResetValues (State.powerUp p) ∧
    (p.hasData = true → ∀ a : Addr, (State.powerUp p).mem.read a = Config.memInit a)) ∧
  (∀ s : State, ResetValues (applyRst s) ∧ ∀ a : Addr, (applyRst s).mem.read a = s.mem.read a)

/-! ### Invariants -/

/-- The invariant holds right after the power-up reset, in both variants and for both values of the open parameter, and so in
`State.reset`. -/
def Obligations.ResetMeetsTheInvariant : Prop := Inv State.reset ∧ ∀ p : Params, Inv (State.powerUp p)

/-- 10_state.md R36 to R38, 20_memory.md R62, R63, R67: every step of the machine keeps the invariant. -/
def Obligations.EveryStepKeepsTheInvariant : Prop :=
  ∀ s t : State, Inv s → step s = .next t → Inv t

/-- 10_state.md R36 to R38, 45_control_fsm.md R152, R153: every rising edge of the clock keeps the invariant, whatever the
pins. -/
def Obligations.EveryClockEdgeKeepsTheInvariant : Prop :=
  ∀ (p : Pins) (s : State), Inv s → Inv (clockEdge p s)

/-- 42_read.md R122: in the extended variant a read returns the memory's word, whether it hits or misses. -/
def Obligations.RdReturnsTheMemoryWord : Prop :=
  ∀ (s : State) (addr : Word), Inv s → s.params.hasData = true → addr.toNat ≤ 1023 →
    ∃ t : State, exec (.rd addr) s = .next t ∧ t.rspStatusQ = .ok ∧ t.rspRdataQ = s.mem.read (lowAddr addr)

/-- 20_memory.md R70, 70_reset_and_hazards.md R193: a read returns the word of the latest earlier write to its address, through
any traffic that does not write there, resets between operations among it; and `MEM_INIT` where there has been no write since
power-up. -/
def Obligations.ReadsReturnTheLatestWrite : Prop :=
  (∀ (s : State) (a v : Word) (between : List Stimulus), Inv s → s.params.hasData = true → s.fsm = .sIdle → a.toNat ≤ 1023 →
    s.stimuli = .request (encode (.wr a v)) :: (between ++ [.request (encode (.rd a))]) →
    (∀ x ∈ between, writesWord a x = false) →
    ∃ t : State, Sys2Proof.core.run (between.length + 2) s = .next t ∧ t.rspStatusQ = .ok ∧ t.rspRdataQ = v) ∧
  (∀ (p : Params) (a : Word) (before : List Stimulus), p.hasData = true → a.toNat ≤ 1023 →
    (∀ x ∈ before, writesWord a x = false) →
    ∃ t : State,
      Sys2Proof.core.run (before.length + 1)
        { State.powerUp p with stimuli := before ++ [.request (encode (.rd a))] } = .next t ∧
      t.rspStatusQ = .ok ∧ t.rspRdataQ = Config.memInit (lowAddr a))

/-- 10_state.md R38: over any run of requests in which no counter saturates, `hits + misses` grows by the number of `RD` and
`WR` that end `OK`, and `evictions` by the number of outcomes `MISS_EVICT`. -/
def Obligations.CountersAccountForTheRun : Prop :=
  ∀ (s : State) (ws : List RequestWord), s.fsm = .sIdle → s.stimuli = ws.map Stimulus.request →
    s.hits.toNat + ws.length < 2 ^ 32 → s.misses.toNat + ws.length < 2 ^ 32 → s.evictions.toNat + ws.length < 2 ^ 32 →
    ∃ t : State, Sys2Proof.core.run ws.length s = .next t ∧ t.stimuli = [] ∧
      t.hits.toNat + t.misses.toNat = s.hits.toNat + s.misses.toNat + ws.countP (isOkReference s.params.hasData) ∧
      t.evictions.toNat = s.evictions.toNat + (outcomesOf ws.length s).count .missEvict

/-- 10_state.md R39: at most one line holds a block, the one its index names. -/
def Obligations.ABlockIsInOneLineAtMost : Prop :=
  ∀ (s : State) (i j : LineIndex), Inv s → (s.line i).valid = true → (s.line j).valid = true →
    (s.line i).blockIndex = (s.line j).blockIndex → i = j ∧ i = (s.line i).blockIndex.extractLsb' 0 4

/-- 44_status.md R146, 20_memory.md R56: any sequence of `SRD` and `DEC`, a snapshot among them, leaves lines, counters, memory
and its history as they were. -/
def Obligations.SnapshotsReadOneState : Prop :=
  ∀ (s : State) (is : List Instr), s.fsm = .sIdle → s.stimuli = present is →
    (∀ i ∈ is, ∃ r : Word, i = .srd r ∨ i = .dec r) →
    ∃ t : State, Sys2Proof.core.run is.length s = .next t ∧ t.stimuli = [] ∧ SameArchitecture s t

/-! ### The signal level -/

/-- 45_control_fsm.md R160: from acceptance on, with `rst` at 0 and a memory that grants every transfer asked for, whatever
the requester does meanwhile, the clocked machine comes to be idle in exactly the state the operation level gives from the
state at acceptance: same lines, counters, memory, response and transfers. -/
def Obligations.FsmRefinesTheOperationLevel : Prop :=
  ∀ (s : State) (w : RequestWord) (p : Pins) (later : Nat → Pins),
    s.fsm = .sIdle → p.rst = false → p.reqValid = true →
    p.reqOp = reqOp w → p.reqAddr = reqAddr w → p.reqWdata = reqWdata w →
    (∀ n : Nat, (later n).rst = false) → MemoryGrants (clockEdge p s) later →
    ∃ n : Nat, exec (decode w) (acceptWord w s) = .next (runEdges (p :: firstEdges later n) s)

/-- 45_control_fsm.md R153: an edge without reset that does not enter `S_RESP` changes no line, no counter, no word of memory
and no response register. -/
def Obligations.ChangesHappenAtTheCommitEdge : Prop :=
  ∀ (p : Pins) (s : State), p.rst = false → (clockEdge p s).fsm ≠ .sResp →
    (clockEdge p s).lines = s.lines ∧ (clockEdge p s).hits = s.hits ∧ (clockEdge p s).misses = s.misses ∧
    (clockEdge p s).evictions = s.evictions ∧ (clockEdge p s).mem = s.mem ∧
    (clockEdge p s).rspStatusQ = s.rspStatusQ ∧ (clockEdge p s).rspOutcomeQ = s.rspOutcomeQ ∧
    (clockEdge p s).rspRdataQ = s.rspRdataQ

/-- 70_reset_and_hazards.md R190: an edge with `rst` at 1 resets the block whatever its state and the other inputs, while it
is 1 the block accepts, answers and asks for nothing, and once it is 0 the block is ready. -/
def Obligations.RstAtAnyEdgeResets : Prop :=
  ∀ (p : Pins) (s : State), p.rst = true →
    (∀ i : LineIndex, ((clockEdge p s).line i).valid = false) ∧
    (clockEdge p s).hits = 0 ∧ (clockEdge p s).misses = 0 ∧ (clockEdge p s).evictions = 0 ∧ (clockEdge p s).fsm = .sIdle ∧
    (∀ a : Addr, (clockEdge p s).mem.read a = s.mem.read a) ∧
    (outputs p.rst s).reqReady = false ∧ (outputs p.rst s).rspValid = false ∧ (outputs p.rst s).memValid = false ∧
    (outputs false (clockEdge p s)).reqReady = true

/-- 70_reset_and_hazards.md R192: an operation whose commit edge has not come when `rst` is asserted has had no effect: memory
is as before it, and the reset leaves what it would have left before the request. One whose commit edge has passed keeps
what it did to memory, loses the rest to the reset, and its response is not given in that cycle. -/
def Obligations.ResetLeavesNothingHalfDone : Prop :=
  (∀ (s : State) (ps : List Pins) (p : Pins), (∀ q ∈ ps, q.rst = false) → p.rst = true →
    (∀ k : Nat, k ≤ ps.length → (runEdges (ps.take k) s).fsm ≠ .sResp) →
    (runEdges (ps ++ [p]) s).mem = s.mem ∧ (∀ i : LineIndex, ((runEdges (ps ++ [p]) s).line i).valid = false) ∧
    (runEdges (ps ++ [p]) s).hits = 0 ∧ (runEdges (ps ++ [p]) s).misses = 0 ∧ (runEdges (ps ++ [p]) s).evictions = 0 ∧
    (runEdges (ps ++ [p]) s).fsm = .sIdle) ∧
  (∀ (s : State) (p : Pins), s.fsm = .sResp → p.rst = true →
    (clockEdge p s).mem = s.mem ∧ (∀ i : LineIndex, ((clockEdge p s).line i).valid = false) ∧
    (clockEdge p s).hits = 0 ∧ (clockEdge p s).misses = 0 ∧ (clockEdge p s).evictions = 0 ∧
    (outputs p.rst s).rspValid = false)

/-- 20_memory.md R60 to R63: a transfer happens at exactly the edges at which the block asks and the memory is ready, it is the
one the outputs ask for, a read gives the memory's word, and memory changes at a write transfer only. -/
def Obligations.TransfersHappenAsAsked : Prop :=
  ∀ (p : Pins) (s : State),
    (if (outputs p.rst s).memValid = true ∧ p.memReady = true then
      (if (outputs p.rst s).memWe = true then
        (clockEdge p s).transfers = s.transfers ++ [.write (outputs p.rst s).memAddr (outputs p.rst s).memWdata] ∧
        ∀ a : Addr, (clockEdge p s).mem.read a =
          if a = (outputs p.rst s).memAddr then (outputs p.rst s).memWdata else s.mem.read a
       else
        (clockEdge p s).transfers =
          s.transfers ++ [.read (outputs p.rst s).memAddr (s.mem.read (outputs p.rst s).memAddr)] ∧
        ∀ a : Addr, (clockEdge p s).mem.read a = s.mem.read a)
     else
      (clockEdge p s).transfers = s.transfers ∧ ∀ a : Addr, (clockEdge p s).mem.read a = s.mem.read a)

/-- 20_memory.md R60, R61, R64: while the memory does not answer the block waits, for ever if need be, changing nothing and
asking for the same transfer. -/
def Obligations.AWaitingBlockChangesNothing : Prop :=
  ∀ (s : State) (ps : List Pins), asksTransfer s.fsm = true → (∀ p ∈ ps, p.rst = false ∧ p.memReady = false) →
    runEdges ps s = s ∧ (outputs false (runEdges ps s)).reqReady = false ∧
    (outputs false (runEdges ps s)).rspValid = false ∧ responsesGiven ps s = 0

/-- 30_encoding.md R82: the operand signals matter at the acceptance edge alone. -/
def Obligations.OperandsMatterAtAcceptanceOnly : Prop :=
  ∀ (p q : Pins) (s : State), p.rst = q.rst → p.memReady = q.memReady →
    ¬ (p.reqValid = true ∧ (outputs p.rst s).reqReady = true) →
    ¬ (q.reqValid = true ∧ (outputs q.rst s).reqReady = true) → clockEdge p s = clockEdge q s

/-- 30_encoding.md R83, R86, 45_control_fsm.md R151, R160, 70_reset_and_hazards.md R200: with `rst` at 0 and a memory that
grants every transfer asked for, an accepted request gets exactly one response after finitely many cycles, the block is then
ready, and it has not been ready in any cycle between, so that no second request can have been accepted. In the one cycle with
`rsp_valid` at 1 the outputs show the status, outcome and word the operation level gives. -/
def Obligations.OneResponsePerRequest : Prop :=
  ∀ (s : State) (w : RequestWord) (p : Pins) (later : Nat → Pins),
    s.fsm = .sIdle → p.rst = false → p.reqValid = true →
    p.reqOp = reqOp w → p.reqAddr = reqAddr w → p.reqWdata = reqWdata w →
    (∀ n : Nat, (later n).rst = false) → MemoryGrants (clockEdge p s) later →
    ∃ (n : Nat) (t : State), exec (decode w) (acceptWord w s) = .next t ∧
      responsesGiven (p :: firstEdges later n) s = 1 ∧
      (outputs false (runEdges (p :: firstEdges later n) s)).reqReady = true ∧
      (∀ k : Nat, k < n → (outputs false (runEdges (p :: firstEdges later k) s)).reqReady = false) ∧
      (∀ k : Nat, k < n → (outputs false (runEdges (p :: firstEdges later k) s)).rspValid = true →
        (outputs false (runEdges (p :: firstEdges later k) s)).rspStatus = t.rspStatusQ ∧
        (outputs false (runEdges (p :: firstEdges later k) s)).rspOutcome = t.rspOutcomeQ ∧
        (outputs false (runEdges (p :: firstEdges later k) s)).rspRdata = t.rspRdataQ)
end

