-- ==== Sys2Proof/Laws/State.lean ====
section
/-! SUPPORT. One lemma for each field and each named update of the state, true by definition, so that no proof unfolds a
record update. -/

namespace Sys2Proof.Machine

variable (s : State)

/-! ### setLine -/

@[simp] theorem setLine_params (i : LineIndex) (l : CacheLine) : (s.setLine i l).params = s.params := rfl
@[simp] theorem setLine_lines (i : LineIndex) (l : CacheLine) : (s.setLine i l).lines = s.lines.set i.toNat l i.isLt := rfl
@[simp] theorem setLine_hits (i : LineIndex) (l : CacheLine) : (s.setLine i l).hits = s.hits := rfl
@[simp] theorem setLine_misses (i : LineIndex) (l : CacheLine) : (s.setLine i l).misses = s.misses := rfl
@[simp] theorem setLine_evictions (i : LineIndex) (l : CacheLine) : (s.setLine i l).evictions = s.evictions := rfl
@[simp] theorem setLine_mem (i : LineIndex) (l : CacheLine) : (s.setLine i l).mem = s.mem := rfl
@[simp] theorem setLine_fsm (i : LineIndex) (l : CacheLine) : (s.setLine i l).fsm = s.fsm := rfl
@[simp] theorem setLine_opQ (i : LineIndex) (l : CacheLine) : (s.setLine i l).opQ = s.opQ := rfl
@[simp] theorem setLine_addrQ (i : LineIndex) (l : CacheLine) : (s.setLine i l).addrQ = s.addrQ := rfl
@[simp] theorem setLine_wdataQ (i : LineIndex) (l : CacheLine) : (s.setLine i l).wdataQ = s.wdataQ := rfl
@[simp] theorem setLine_fb (i : LineIndex) (l : CacheLine) : (s.setLine i l).fb = s.fb := rfl
@[simp] theorem setLine_rspStatusQ (i : LineIndex) (l : CacheLine) : (s.setLine i l).rspStatusQ = s.rspStatusQ := rfl
@[simp] theorem setLine_rspOutcomeQ (i : LineIndex) (l : CacheLine) : (s.setLine i l).rspOutcomeQ = s.rspOutcomeQ := rfl
@[simp] theorem setLine_rspRdataQ (i : LineIndex) (l : CacheLine) : (s.setLine i l).rspRdataQ = s.rspRdataQ := rfl
@[simp] theorem setLine_transfers (i : LineIndex) (l : CacheLine) : (s.setLine i l).transfers = s.transfers := rfl
@[simp] theorem setLine_drawn (i : LineIndex) (l : CacheLine) : (s.setLine i l).drawn = s.drawn := rfl
@[simp] theorem setLine_stimuli (i : LineIndex) (l : CacheLine) : (s.setLine i l).stimuli = s.stimuli := rfl

/-! ### countHit -/

@[simp] theorem countHit_params : s.countHit.params = s.params := rfl
@[simp] theorem countHit_lines : s.countHit.lines = s.lines := rfl
@[simp] theorem countHit_hits : s.countHit.hits = satinc s.hits := rfl
@[simp] theorem countHit_misses : s.countHit.misses = s.misses := rfl
@[simp] theorem countHit_evictions : s.countHit.evictions = s.evictions := rfl
@[simp] theorem countHit_mem : s.countHit.mem = s.mem := rfl
@[simp] theorem countHit_fsm : s.countHit.fsm = s.fsm := rfl
@[simp] theorem countHit_opQ : s.countHit.opQ = s.opQ := rfl
@[simp] theorem countHit_addrQ : s.countHit.addrQ = s.addrQ := rfl
@[simp] theorem countHit_wdataQ : s.countHit.wdataQ = s.wdataQ := rfl
@[simp] theorem countHit_fb : s.countHit.fb = s.fb := rfl
@[simp] theorem countHit_rspStatusQ : s.countHit.rspStatusQ = s.rspStatusQ := rfl
@[simp] theorem countHit_rspOutcomeQ : s.countHit.rspOutcomeQ = s.rspOutcomeQ := rfl
@[simp] theorem countHit_rspRdataQ : s.countHit.rspRdataQ = s.rspRdataQ := rfl
@[simp] theorem countHit_transfers : s.countHit.transfers = s.transfers := rfl
@[simp] theorem countHit_drawn : s.countHit.drawn = s.drawn := rfl
@[simp] theorem countHit_stimuli : s.countHit.stimuli = s.stimuli := rfl

/-! ### countMiss -/

@[simp] theorem countMiss_params : s.countMiss.params = s.params := rfl
@[simp] theorem countMiss_lines : s.countMiss.lines = s.lines := rfl
@[simp] theorem countMiss_hits : s.countMiss.hits = s.hits := rfl
@[simp] theorem countMiss_misses : s.countMiss.misses = satinc s.misses := rfl
@[simp] theorem countMiss_evictions : s.countMiss.evictions = s.evictions := rfl
@[simp] theorem countMiss_mem : s.countMiss.mem = s.mem := rfl
@[simp] theorem countMiss_fsm : s.countMiss.fsm = s.fsm := rfl
@[simp] theorem countMiss_opQ : s.countMiss.opQ = s.opQ := rfl
@[simp] theorem countMiss_addrQ : s.countMiss.addrQ = s.addrQ := rfl
@[simp] theorem countMiss_wdataQ : s.countMiss.wdataQ = s.wdataQ := rfl
@[simp] theorem countMiss_fb : s.countMiss.fb = s.fb := rfl
@[simp] theorem countMiss_rspStatusQ : s.countMiss.rspStatusQ = s.rspStatusQ := rfl
@[simp] theorem countMiss_rspOutcomeQ : s.countMiss.rspOutcomeQ = s.rspOutcomeQ := rfl
@[simp] theorem countMiss_rspRdataQ : s.countMiss.rspRdataQ = s.rspRdataQ := rfl
@[simp] theorem countMiss_transfers : s.countMiss.transfers = s.transfers := rfl
@[simp] theorem countMiss_drawn : s.countMiss.drawn = s.drawn := rfl
@[simp] theorem countMiss_stimuli : s.countMiss.stimuli = s.stimuli := rfl

/-! ### countEviction -/

@[simp] theorem countEviction_params (e : Bool) : (s.countEviction e).params = s.params := rfl
@[simp] theorem countEviction_lines (e : Bool) : (s.countEviction e).lines = s.lines := rfl
@[simp] theorem countEviction_hits (e : Bool) : (s.countEviction e).hits = s.hits := rfl
@[simp] theorem countEviction_misses (e : Bool) : (s.countEviction e).misses = s.misses := rfl
@[simp] theorem countEviction_evictions (e : Bool) : (s.countEviction e).evictions = if e then satinc s.evictions else s.evictions := rfl
@[simp] theorem countEviction_mem (e : Bool) : (s.countEviction e).mem = s.mem := rfl
@[simp] theorem countEviction_fsm (e : Bool) : (s.countEviction e).fsm = s.fsm := rfl
@[simp] theorem countEviction_opQ (e : Bool) : (s.countEviction e).opQ = s.opQ := rfl
@[simp] theorem countEviction_addrQ (e : Bool) : (s.countEviction e).addrQ = s.addrQ := rfl
@[simp] theorem countEviction_wdataQ (e : Bool) : (s.countEviction e).wdataQ = s.wdataQ := rfl
@[simp] theorem countEviction_fb (e : Bool) : (s.countEviction e).fb = s.fb := rfl
@[simp] theorem countEviction_rspStatusQ (e : Bool) : (s.countEviction e).rspStatusQ = s.rspStatusQ := rfl
@[simp] theorem countEviction_rspOutcomeQ (e : Bool) : (s.countEviction e).rspOutcomeQ = s.rspOutcomeQ := rfl
@[simp] theorem countEviction_rspRdataQ (e : Bool) : (s.countEviction e).rspRdataQ = s.rspRdataQ := rfl
@[simp] theorem countEviction_transfers (e : Bool) : (s.countEviction e).transfers = s.transfers := rfl
@[simp] theorem countEviction_drawn (e : Bool) : (s.countEviction e).drawn = s.drawn := rfl
@[simp] theorem countEviction_stimuli (e : Bool) : (s.countEviction e).stimuli = s.stimuli := rfl

/-! ### readTransfer -/

@[simp] theorem readTransfer_params (a : Addr) : (s.readTransfer a).params = s.params := rfl
@[simp] theorem readTransfer_lines (a : Addr) : (s.readTransfer a).lines = s.lines := rfl
@[simp] theorem readTransfer_hits (a : Addr) : (s.readTransfer a).hits = s.hits := rfl
@[simp] theorem readTransfer_misses (a : Addr) : (s.readTransfer a).misses = s.misses := rfl
@[simp] theorem readTransfer_evictions (a : Addr) : (s.readTransfer a).evictions = s.evictions := rfl
@[simp] theorem readTransfer_mem (a : Addr) : (s.readTransfer a).mem = s.mem := rfl
@[simp] theorem readTransfer_fsm (a : Addr) : (s.readTransfer a).fsm = s.fsm := rfl
@[simp] theorem readTransfer_opQ (a : Addr) : (s.readTransfer a).opQ = s.opQ := rfl
@[simp] theorem readTransfer_addrQ (a : Addr) : (s.readTransfer a).addrQ = s.addrQ := rfl
@[simp] theorem readTransfer_wdataQ (a : Addr) : (s.readTransfer a).wdataQ = s.wdataQ := rfl
@[simp] theorem readTransfer_fb (a : Addr) : (s.readTransfer a).fb = s.fb := rfl
@[simp] theorem readTransfer_rspStatusQ (a : Addr) : (s.readTransfer a).rspStatusQ = s.rspStatusQ := rfl
@[simp] theorem readTransfer_rspOutcomeQ (a : Addr) : (s.readTransfer a).rspOutcomeQ = s.rspOutcomeQ := rfl
@[simp] theorem readTransfer_rspRdataQ (a : Addr) : (s.readTransfer a).rspRdataQ = s.rspRdataQ := rfl
@[simp] theorem readTransfer_transfers (a : Addr) : (s.readTransfer a).transfers = s.transfers ++ [.read a (s.mem.read a)] := rfl
@[simp] theorem readTransfer_drawn (a : Addr) : (s.readTransfer a).drawn = s.drawn := rfl
@[simp] theorem readTransfer_stimuli (a : Addr) : (s.readTransfer a).stimuli = s.stimuli := rfl

/-! ### writeTransfer -/

@[simp] theorem writeTransfer_params (a : Addr) (v : Word) : (s.writeTransfer a v).params = s.params := rfl
@[simp] theorem writeTransfer_lines (a : Addr) (v : Word) : (s.writeTransfer a v).lines = s.lines := rfl
@[simp] theorem writeTransfer_hits (a : Addr) (v : Word) : (s.writeTransfer a v).hits = s.hits := rfl
@[simp] theorem writeTransfer_misses (a : Addr) (v : Word) : (s.writeTransfer a v).misses = s.misses := rfl
@[simp] theorem writeTransfer_evictions (a : Addr) (v : Word) : (s.writeTransfer a v).evictions = s.evictions := rfl
@[simp] theorem writeTransfer_mem (a : Addr) (v : Word) : (s.writeTransfer a v).mem = s.mem.write a v := rfl
@[simp] theorem writeTransfer_fsm (a : Addr) (v : Word) : (s.writeTransfer a v).fsm = s.fsm := rfl
@[simp] theorem writeTransfer_opQ (a : Addr) (v : Word) : (s.writeTransfer a v).opQ = s.opQ := rfl
@[simp] theorem writeTransfer_addrQ (a : Addr) (v : Word) : (s.writeTransfer a v).addrQ = s.addrQ := rfl
@[simp] theorem writeTransfer_wdataQ (a : Addr) (v : Word) : (s.writeTransfer a v).wdataQ = s.wdataQ := rfl
@[simp] theorem writeTransfer_fb (a : Addr) (v : Word) : (s.writeTransfer a v).fb = s.fb := rfl
@[simp] theorem writeTransfer_rspStatusQ (a : Addr) (v : Word) : (s.writeTransfer a v).rspStatusQ = s.rspStatusQ := rfl
@[simp] theorem writeTransfer_rspOutcomeQ (a : Addr) (v : Word) : (s.writeTransfer a v).rspOutcomeQ = s.rspOutcomeQ := rfl
@[simp] theorem writeTransfer_rspRdataQ (a : Addr) (v : Word) : (s.writeTransfer a v).rspRdataQ = s.rspRdataQ := rfl
@[simp] theorem writeTransfer_transfers (a : Addr) (v : Word) : (s.writeTransfer a v).transfers = s.transfers ++ [.write a v] := rfl
@[simp] theorem writeTransfer_drawn (a : Addr) (v : Word) : (s.writeTransfer a v).drawn = s.drawn := rfl
@[simp] theorem writeTransfer_stimuli (a : Addr) (v : Word) : (s.writeTransfer a v).stimuli = s.stimuli := rfl

/-! ### setFb -/

@[simp] theorem setFb_params (k : Fin 3) (v : Word) : (s.setFb k v).params = s.params := rfl
@[simp] theorem setFb_lines (k : Fin 3) (v : Word) : (s.setFb k v).lines = s.lines := rfl
@[simp] theorem setFb_hits (k : Fin 3) (v : Word) : (s.setFb k v).hits = s.hits := rfl
@[simp] theorem setFb_misses (k : Fin 3) (v : Word) : (s.setFb k v).misses = s.misses := rfl
@[simp] theorem setFb_evictions (k : Fin 3) (v : Word) : (s.setFb k v).evictions = s.evictions := rfl
@[simp] theorem setFb_mem (k : Fin 3) (v : Word) : (s.setFb k v).mem = s.mem := rfl
@[simp] theorem setFb_fsm (k : Fin 3) (v : Word) : (s.setFb k v).fsm = s.fsm := rfl
@[simp] theorem setFb_opQ (k : Fin 3) (v : Word) : (s.setFb k v).opQ = s.opQ := rfl
@[simp] theorem setFb_addrQ (k : Fin 3) (v : Word) : (s.setFb k v).addrQ = s.addrQ := rfl
@[simp] theorem setFb_wdataQ (k : Fin 3) (v : Word) : (s.setFb k v).wdataQ = s.wdataQ := rfl
@[simp] theorem setFb_fb (k : Fin 3) (v : Word) : (s.setFb k v).fb = s.fb.set k.val v k.isLt := rfl
@[simp] theorem setFb_rspStatusQ (k : Fin 3) (v : Word) : (s.setFb k v).rspStatusQ = s.rspStatusQ := rfl
@[simp] theorem setFb_rspOutcomeQ (k : Fin 3) (v : Word) : (s.setFb k v).rspOutcomeQ = s.rspOutcomeQ := rfl
@[simp] theorem setFb_rspRdataQ (k : Fin 3) (v : Word) : (s.setFb k v).rspRdataQ = s.rspRdataQ := rfl
@[simp] theorem setFb_transfers (k : Fin 3) (v : Word) : (s.setFb k v).transfers = s.transfers := rfl
@[simp] theorem setFb_drawn (k : Fin 3) (v : Word) : (s.setFb k v).drawn = s.drawn := rfl
@[simp] theorem setFb_stimuli (k : Fin 3) (v : Word) : (s.setFb k v).stimuli = s.stimuli := rfl

/-! ### goto -/

@[simp] theorem goto_params (f : Fsm) : (s.goto f).params = s.params := rfl
@[simp] theorem goto_lines (f : Fsm) : (s.goto f).lines = s.lines := rfl
@[simp] theorem goto_hits (f : Fsm) : (s.goto f).hits = s.hits := rfl
@[simp] theorem goto_misses (f : Fsm) : (s.goto f).misses = s.misses := rfl
@[simp] theorem goto_evictions (f : Fsm) : (s.goto f).evictions = s.evictions := rfl
@[simp] theorem goto_mem (f : Fsm) : (s.goto f).mem = s.mem := rfl
@[simp] theorem goto_fsm (f : Fsm) : (s.goto f).fsm = f := rfl
@[simp] theorem goto_opQ (f : Fsm) : (s.goto f).opQ = s.opQ := rfl
@[simp] theorem goto_addrQ (f : Fsm) : (s.goto f).addrQ = s.addrQ := rfl
@[simp] theorem goto_wdataQ (f : Fsm) : (s.goto f).wdataQ = s.wdataQ := rfl
@[simp] theorem goto_fb (f : Fsm) : (s.goto f).fb = s.fb := rfl
@[simp] theorem goto_rspStatusQ (f : Fsm) : (s.goto f).rspStatusQ = s.rspStatusQ := rfl
@[simp] theorem goto_rspOutcomeQ (f : Fsm) : (s.goto f).rspOutcomeQ = s.rspOutcomeQ := rfl
@[simp] theorem goto_rspRdataQ (f : Fsm) : (s.goto f).rspRdataQ = s.rspRdataQ := rfl
@[simp] theorem goto_transfers (f : Fsm) : (s.goto f).transfers = s.transfers := rfl
@[simp] theorem goto_drawn (f : Fsm) : (s.goto f).drawn = s.drawn := rfl
@[simp] theorem goto_stimuli (f : Fsm) : (s.goto f).stimuli = s.stimuli := rfl

/-! ### respond -/

@[simp] theorem respond_params (st : Status) (o : RefOutcome) (w : Word) : (respond st o w s).params = s.params := rfl
@[simp] theorem respond_lines (st : Status) (o : RefOutcome) (w : Word) : (respond st o w s).lines = s.lines := rfl
@[simp] theorem respond_hits (st : Status) (o : RefOutcome) (w : Word) : (respond st o w s).hits = s.hits := rfl
@[simp] theorem respond_misses (st : Status) (o : RefOutcome) (w : Word) : (respond st o w s).misses = s.misses := rfl
@[simp] theorem respond_evictions (st : Status) (o : RefOutcome) (w : Word) : (respond st o w s).evictions = s.evictions := rfl
@[simp] theorem respond_mem (st : Status) (o : RefOutcome) (w : Word) : (respond st o w s).mem = s.mem := rfl
@[simp] theorem respond_fsm (st : Status) (o : RefOutcome) (w : Word) : (respond st o w s).fsm = s.fsm := rfl
@[simp] theorem respond_opQ (st : Status) (o : RefOutcome) (w : Word) : (respond st o w s).opQ = s.opQ := rfl
@[simp] theorem respond_addrQ (st : Status) (o : RefOutcome) (w : Word) : (respond st o w s).addrQ = s.addrQ := rfl
@[simp] theorem respond_wdataQ (st : Status) (o : RefOutcome) (w : Word) : (respond st o w s).wdataQ = s.wdataQ := rfl
@[simp] theorem respond_fb (st : Status) (o : RefOutcome) (w : Word) : (respond st o w s).fb = s.fb := rfl
@[simp] theorem respond_rspStatusQ (st : Status) (o : RefOutcome) (w : Word) : (respond st o w s).rspStatusQ = st := rfl
@[simp] theorem respond_rspOutcomeQ (st : Status) (o : RefOutcome) (w : Word) : (respond st o w s).rspOutcomeQ = o := rfl
@[simp] theorem respond_rspRdataQ (st : Status) (o : RefOutcome) (w : Word) : (respond st o w s).rspRdataQ = w := rfl
@[simp] theorem respond_transfers (st : Status) (o : RefOutcome) (w : Word) : (respond st o w s).transfers = s.transfers := rfl
@[simp] theorem respond_drawn (st : Status) (o : RefOutcome) (w : Word) : (respond st o w s).drawn = s.drawn := rfl
@[simp] theorem respond_stimuli (st : Status) (o : RefOutcome) (w : Word) : (respond st o w s).stimuli = s.stimuli := rfl

/-! ### raiseError -/

@[simp] theorem raiseError_params (st : Status) : (raiseError st s).params = s.params := rfl
@[simp] theorem raiseError_lines (st : Status) : (raiseError st s).lines = s.lines := rfl
@[simp] theorem raiseError_hits (st : Status) : (raiseError st s).hits = s.hits := rfl
@[simp] theorem raiseError_misses (st : Status) : (raiseError st s).misses = s.misses := rfl
@[simp] theorem raiseError_evictions (st : Status) : (raiseError st s).evictions = s.evictions := rfl
@[simp] theorem raiseError_mem (st : Status) : (raiseError st s).mem = s.mem := rfl
@[simp] theorem raiseError_fsm (st : Status) : (raiseError st s).fsm = s.fsm := rfl
@[simp] theorem raiseError_opQ (st : Status) : (raiseError st s).opQ = s.opQ := rfl
@[simp] theorem raiseError_addrQ (st : Status) : (raiseError st s).addrQ = s.addrQ := rfl
@[simp] theorem raiseError_wdataQ (st : Status) : (raiseError st s).wdataQ = s.wdataQ := rfl
@[simp] theorem raiseError_fb (st : Status) : (raiseError st s).fb = s.fb := rfl
@[simp] theorem raiseError_rspStatusQ (st : Status) : (raiseError st s).rspStatusQ = st := rfl
@[simp] theorem raiseError_rspOutcomeQ (st : Status) : (raiseError st s).rspOutcomeQ = .none := rfl
@[simp] theorem raiseError_rspRdataQ (st : Status) : (raiseError st s).rspRdataQ = 0 := rfl
@[simp] theorem raiseError_transfers (st : Status) : (raiseError st s).transfers = s.transfers := rfl
@[simp] theorem raiseError_drawn (st : Status) : (raiseError st s).drawn = s.drawn := rfl
@[simp] theorem raiseError_stimuli (st : Status) : (raiseError st s).stimuli = s.stimuli := rfl

/-! ### respondAny -/

@[simp] theorem respondAny_params (o : RefOutcome) : (respondAny o s).params = s.params := rfl
@[simp] theorem respondAny_lines (o : RefOutcome) : (respondAny o s).lines = s.lines := rfl
@[simp] theorem respondAny_hits (o : RefOutcome) : (respondAny o s).hits = s.hits := rfl
@[simp] theorem respondAny_misses (o : RefOutcome) : (respondAny o s).misses = s.misses := rfl
@[simp] theorem respondAny_evictions (o : RefOutcome) : (respondAny o s).evictions = s.evictions := rfl
@[simp] theorem respondAny_mem (o : RefOutcome) : (respondAny o s).mem = s.mem := rfl
@[simp] theorem respondAny_fsm (o : RefOutcome) : (respondAny o s).fsm = s.fsm := rfl
@[simp] theorem respondAny_opQ (o : RefOutcome) : (respondAny o s).opQ = s.opQ := rfl
@[simp] theorem respondAny_addrQ (o : RefOutcome) : (respondAny o s).addrQ = s.addrQ := rfl
@[simp] theorem respondAny_wdataQ (o : RefOutcome) : (respondAny o s).wdataQ = s.wdataQ := rfl
@[simp] theorem respondAny_fb (o : RefOutcome) : (respondAny o s).fb = s.fb := rfl
@[simp] theorem respondAny_rspStatusQ (o : RefOutcome) : (respondAny o s).rspStatusQ = .ok := rfl
@[simp] theorem respondAny_rspOutcomeQ (o : RefOutcome) : (respondAny o s).rspOutcomeQ = o := rfl
@[simp] theorem respondAny_rspRdataQ (o : RefOutcome) : (respondAny o s).rspRdataQ = Config.any32 s.drawn := rfl
@[simp] theorem respondAny_transfers (o : RefOutcome) : (respondAny o s).transfers = s.transfers := rfl
@[simp] theorem respondAny_drawn (o : RefOutcome) : (respondAny o s).drawn = s.drawn + 1 := rfl
@[simp] theorem respondAny_stimuli (o : RefOutcome) : (respondAny o s).stimuli = s.stimuli := rfl

/-! ### accept -/

@[simp] theorem accept_params (op : OpCode) (a v : Word) : (accept op a v s).params = s.params := rfl
@[simp] theorem accept_lines (op : OpCode) (a v : Word) : (accept op a v s).lines = s.lines := rfl
@[simp] theorem accept_hits (op : OpCode) (a v : Word) : (accept op a v s).hits = s.hits := rfl
@[simp] theorem accept_misses (op : OpCode) (a v : Word) : (accept op a v s).misses = s.misses := rfl
@[simp] theorem accept_evictions (op : OpCode) (a v : Word) : (accept op a v s).evictions = s.evictions := rfl
@[simp] theorem accept_mem (op : OpCode) (a v : Word) : (accept op a v s).mem = s.mem := rfl
@[simp] theorem accept_fsm (op : OpCode) (a v : Word) : (accept op a v s).fsm = .sExec := rfl
@[simp] theorem accept_opQ (op : OpCode) (a v : Word) : (accept op a v s).opQ = op := rfl
@[simp] theorem accept_addrQ (op : OpCode) (a v : Word) : (accept op a v s).addrQ = a := rfl
@[simp] theorem accept_wdataQ (op : OpCode) (a v : Word) : (accept op a v s).wdataQ = v := rfl
@[simp] theorem accept_fb (op : OpCode) (a v : Word) : (accept op a v s).fb = s.fb := rfl
@[simp] theorem accept_rspStatusQ (op : OpCode) (a v : Word) : (accept op a v s).rspStatusQ = s.rspStatusQ := rfl
@[simp] theorem accept_rspOutcomeQ (op : OpCode) (a v : Word) : (accept op a v s).rspOutcomeQ = s.rspOutcomeQ := rfl
@[simp] theorem accept_rspRdataQ (op : OpCode) (a v : Word) : (accept op a v s).rspRdataQ = s.rspRdataQ := rfl
@[simp] theorem accept_transfers (op : OpCode) (a v : Word) : (accept op a v s).transfers = s.transfers := rfl
@[simp] theorem accept_drawn (op : OpCode) (a v : Word) : (accept op a v s).drawn = s.drawn := rfl
@[simp] theorem accept_stimuli (op : OpCode) (a v : Word) : (accept op a v s).stimuli = s.stimuli := rfl

/-! ### acceptWord -/

@[simp] theorem acceptWord_params (w : RequestWord) : (acceptWord w s).params = s.params := rfl
@[simp] theorem acceptWord_lines (w : RequestWord) : (acceptWord w s).lines = s.lines := rfl
@[simp] theorem acceptWord_hits (w : RequestWord) : (acceptWord w s).hits = s.hits := rfl
@[simp] theorem acceptWord_misses (w : RequestWord) : (acceptWord w s).misses = s.misses := rfl
@[simp] theorem acceptWord_evictions (w : RequestWord) : (acceptWord w s).evictions = s.evictions := rfl
@[simp] theorem acceptWord_mem (w : RequestWord) : (acceptWord w s).mem = s.mem := rfl
@[simp] theorem acceptWord_fsm (w : RequestWord) : (acceptWord w s).fsm = .sExec := rfl
@[simp] theorem acceptWord_opQ (w : RequestWord) : (acceptWord w s).opQ = reqOp w := rfl
@[simp] theorem acceptWord_addrQ (w : RequestWord) : (acceptWord w s).addrQ = reqAddr w := rfl
@[simp] theorem acceptWord_wdataQ (w : RequestWord) : (acceptWord w s).wdataQ = reqWdata w := rfl
@[simp] theorem acceptWord_fb (w : RequestWord) : (acceptWord w s).fb = s.fb := rfl
@[simp] theorem acceptWord_rspStatusQ (w : RequestWord) : (acceptWord w s).rspStatusQ = s.rspStatusQ := rfl
@[simp] theorem acceptWord_rspOutcomeQ (w : RequestWord) : (acceptWord w s).rspOutcomeQ = s.rspOutcomeQ := rfl
@[simp] theorem acceptWord_rspRdataQ (w : RequestWord) : (acceptWord w s).rspRdataQ = s.rspRdataQ := rfl
@[simp] theorem acceptWord_transfers (w : RequestWord) : (acceptWord w s).transfers = s.transfers := rfl
@[simp] theorem acceptWord_drawn (w : RequestWord) : (acceptWord w s).drawn = s.drawn := rfl
@[simp] theorem acceptWord_stimuli (w : RequestWord) : (acceptWord w s).stimuli = s.stimuli := rfl

/-! ### applyRst -/

@[simp] theorem applyRst_params : (applyRst s).params = s.params := rfl
@[simp] theorem applyRst_lines : (applyRst s).lines = resetLines := rfl
@[simp] theorem applyRst_hits : (applyRst s).hits = 0 := rfl
@[simp] theorem applyRst_misses : (applyRst s).misses = 0 := rfl
@[simp] theorem applyRst_evictions : (applyRst s).evictions = 0 := rfl
@[simp] theorem applyRst_mem : (applyRst s).mem = s.mem := rfl
@[simp] theorem applyRst_fsm : (applyRst s).fsm = .sIdle := rfl
@[simp] theorem applyRst_opQ : (applyRst s).opQ = 0 := rfl
@[simp] theorem applyRst_addrQ : (applyRst s).addrQ = 0 := rfl
@[simp] theorem applyRst_wdataQ : (applyRst s).wdataQ = 0 := rfl
@[simp] theorem applyRst_fb : (applyRst s).fb = #v[0, 0, 0] := rfl
@[simp] theorem applyRst_rspStatusQ : (applyRst s).rspStatusQ = .ok := rfl
@[simp] theorem applyRst_rspOutcomeQ : (applyRst s).rspOutcomeQ = .none := rfl
@[simp] theorem applyRst_rspRdataQ : (applyRst s).rspRdataQ = 0 := rfl
@[simp] theorem applyRst_transfers : (applyRst s).transfers = s.transfers := rfl
@[simp] theorem applyRst_drawn : (applyRst s).drawn = s.drawn := rfl
@[simp] theorem applyRst_stimuli : (applyRst s).stimuli = s.stimuli := rfl

end Sys2Proof.Machine
end

