-- ==== Sys2Proof/Laws/Memory.lean ====
section
/-! SUPPORT. The laws of the backing memory: read after write, and the canonical form is kept by every operation. -/

namespace Sys2Proof.Machine

@[simp] theorem Memory.find_insert_same (m : Memory) (a : Nat) (v : Word) :
    Memory.find (Memory.insert m a v) a = some v := by
  induction m with
  | nil => simp [Memory.insert, Memory.find]
  | cons c m ih =>
    obtain ⟨b, w⟩ := c
    simp only [Memory.insert]
    split
    · simp [Memory.find]
    · split
      · simp [Memory.find]
      · next h => simp [Memory.find, h, ih]

theorem Memory.find_insert_ne (m : Memory) {a c : Nat} (v : Word) (h : c ≠ a) :
    Memory.find (Memory.insert m a v) c = Memory.find m c := by
  induction m with
  | nil => simp [Memory.insert, Memory.find, h]
  | cons e m ih =>
    obtain ⟨b, w⟩ := e
    simp only [Memory.insert]
    split
    · simp [Memory.find, h]
    · split
      · next hab => subst hab; simp [Memory.find, h]
      · simp [Memory.find, ih]

/-- A word just written reads as written. -/
@[simp] theorem Memory.read_write_same (m : Memory) (a : Addr) (v : Word) : (m.write a v).read a = v := by
  simp [Memory.read, Memory.write]

/-- A write leaves every other word alone. -/
theorem Memory.read_write_ne (m : Memory) {a c : Addr} (v : Word) (h : c ≠ a) :
    (m.write a v).read c = m.read c := by
  have : c.toNat ≠ a.toNat := fun e => h (BitVec.eq_of_toNat_eq e)
  simp [Memory.read, Memory.write, Memory.find_insert_ne _ _ this]

/-- What a write does to every word, said once. -/
theorem Memory.read_write (m : Memory) (a c : Addr) (v : Word) :
    (m.write a v).read c = if c = a then v else m.read c := by
  split
  · next h => subst h; simp
  · next h => exact Memory.read_write_ne m v h

/-- Nothing listed: every word reads as `MEM_INIT`. -/
@[simp] theorem Memory.read_nil (a : Addr) : Memory.read [] a = Config.memInit a := rfl

theorem Memory.risesFrom_insert (m : Memory) {lo a : Nat} (v : Word) (h : Memory.risesFrom lo m = true) (ha : lo ≤ a) :
    Memory.risesFrom lo (Memory.insert m a v) = true := by
  induction m generalizing lo with
  | nil => simp [Memory.insert, Memory.risesFrom, ha]
  | cons c m ih =>
    obtain ⟨b, w⟩ := c
    simp only [Memory.risesFrom, Bool.and_eq_true, decide_eq_true_eq] at h
    simp only [Memory.insert]
    split
    · next hab => simp [Memory.risesFrom, ha, h.2]; omega
    · split
      · next hab => subst hab; simp [Memory.risesFrom, ha, h.2]
      · simp only [Memory.risesFrom, Bool.and_eq_true, decide_eq_true_eq]
        exact ⟨h.1, ih h.2 (by omega)⟩

theorem Memory.bounded_insert (m : Memory) {a n : Nat} (v : Word) (h : ∀ c ∈ m, c.1 < n) (ha : a < n) :
    ∀ c ∈ Memory.insert m a v, c.1 < n := by
  induction m with
  | nil => simp [Memory.insert, ha]
  | cons c m ih =>
    obtain ⟨b, w⟩ := c
    have hb : b < n := h (b, w) (by simp)
    have hm : ∀ c ∈ m, c.1 < n := fun c hc => h c (by simp [hc])
    simp only [Memory.insert]
    split
    · intro c hc
      rcases List.mem_cons.1 hc with rfl | hc
      · exact ha
      · exact h c hc
    · split
      · intro c hc
        rcases List.mem_cons.1 hc with rfl | hc
        · exact ha
        · exact hm c hc
      · intro c hc
        rcases List.mem_cons.1 hc with rfl | hc
        · exact hb
        · exact ih hm c hc

theorem Memory.wf_nil : Memory.wf [] = true := rfl

/-- Every write keeps the canonical form. -/
theorem Memory.wf_write (m : Memory) (a : Addr) (v : Word) (h : m.wf = true) : (m.write a v).wf = true := by
  simp only [Memory.wf, Bool.and_eq_true, List.all_eq_true, decide_eq_true_eq] at h ⊢
  have ha : a.toNat < Config.nWords := a.isLt
  exact ⟨Memory.risesFrom_insert m v h.1 (Nat.zero_le _), Memory.bounded_insert m v h.2 ha⟩

/-- The memory of the reset state is in its canonical form. -/
theorem reset_mem_wf : State.reset.mem.wf = true := rfl

/-- The history after one more transfer. -/
@[simp] theorem lastWritten_append_one (h : List Transfer) (t : Transfer) (a : Addr) :
    lastWritten (h ++ [t]) a = afterTransfer a (lastWritten h a) t := by
  simp [lastWritten]

@[simp] theorem lastWritten_nil (a : Addr) : lastWritten [] a = Config.memInit a := rfl

/-- A history stays coherent when a write is added. -/
theorem ReadsCoherent.write {h : List Transfer} (hc : ReadsCoherent h) (a : Addr) (v : Word) :
    ReadsCoherent (h ++ [.write a v]) := by
  intro before b w after e
  rcases List.eq_nil_or_concat after with rfl | ⟨l, t, rfl⟩
  · have := congrArg List.getLast? e
    simp at this
  · have e' : h ++ [Transfer.write a v] = (before ++ .read b w :: l) ++ [t] := by simpa using e
    exact hc before b w l (List.append_inj_left' e' rfl)

/-- A history stays coherent when a read of the word the history gives is added. -/
theorem ReadsCoherent.read {h : List Transfer} (hc : ReadsCoherent h) (a : Addr) (v : Word) (hv : v = lastWritten h a) :
    ReadsCoherent (h ++ [.read a v]) := by
  intro before b w after e
  rcases List.eq_nil_or_concat after with rfl | ⟨l, t, rfl⟩
  · have e' : h = before ∧ ([Transfer.read a v] : List Transfer) = [.read b w] := List.append_inj' e rfl
    obtain ⟨rfl, h2⟩ := e'
    simp only [List.cons.injEq, Transfer.read.injEq, and_true] at h2
    obtain ⟨rfl, rfl⟩ := h2
    exact hv
  · have e' : h ++ [Transfer.read a v] = (before ++ .read b w :: l) ++ [t] := by simpa using e
    exact hc before b w l (List.append_inj_left' e' rfl)

end Sys2Proof.Machine
end

