-- ==== Sys2Proof/Laws/Lines.lean ====
section
/-! SUPPORT. The laws of the cache array: a line written reads as written, no other line changes, and the updates that are
not of a line leave every line alone. -/

namespace Sys2Proof.Machine

/-- Lines are equal where the arrays are. -/
theorem line_of_lines {s t : State} (h : t.lines = s.lines) (i : LineIndex) : t.line i = s.line i := by
  simp [State.line, h]

@[simp] theorem line_setLine_same (s : State) (i : LineIndex) (l : CacheLine) : (s.setLine i l).line i = l := by
  simp [State.line]

theorem line_setLine_ne (s : State) {i j : LineIndex} (l : CacheLine) (h : j ≠ i) : (s.setLine i l).line j = s.line j := by
  have : i.toNat ≠ j.toNat := fun e => h (BitVec.eq_of_toNat_eq e.symm)
  simp [State.line, this]

theorem line_setLine (s : State) (i j : LineIndex) (l : CacheLine) :
    (s.setLine i l).line j = if j = i then l else s.line j := by
  split
  · next h => subst h; simp
  · next h => exact line_setLine_ne s l h

variable (s : State) (i : LineIndex)

@[simp] theorem line_countHit : s.countHit.line i = s.line i := rfl
@[simp] theorem line_countMiss : s.countMiss.line i = s.line i := rfl
@[simp] theorem line_countEviction (e : Bool) : (s.countEviction e).line i = s.line i := rfl
@[simp] theorem line_readTransfer (a : Addr) : (s.readTransfer a).line i = s.line i := rfl
@[simp] theorem line_writeTransfer (a : Addr) (v : Word) : (s.writeTransfer a v).line i = s.line i := rfl
@[simp] theorem line_setFb (k : Fin 3) (v : Word) : (s.setFb k v).line i = s.line i := rfl
@[simp] theorem line_goto (f : Fsm) : (s.goto f).line i = s.line i := rfl
@[simp] theorem line_respond (st : Status) (o : RefOutcome) (w : Word) : (respond st o w s).line i = s.line i := rfl
@[simp] theorem line_raiseError (st : Status) : (raiseError st s).line i = s.line i := rfl
@[simp] theorem line_respondAny (o : RefOutcome) : (respondAny o s).line i = s.line i := rfl
@[simp] theorem line_accept (op : OpCode) (a v : Word) : (accept op a v s).line i = s.line i := rfl
@[simp] theorem line_acceptWord (w : RequestWord) : (acceptWord w s).line i = s.line i := rfl

/-- After reset every line is invalid (10_state.md R40). -/
theorem resetLines_invalid : ∀ i : LineIndex, (resetLines[i.toNat]'i.isLt).valid = false := by decide

@[simp] theorem line_applyRst_valid : ((applyRst s).line i).valid = false := resetLines_invalid i

@[simp] theorem fillMeta_valid (d : Decoded) (l : CacheLine) : (fillMeta d l).valid = true := rfl
@[simp] theorem fillMeta_tag (d : Decoded) (l : CacheLine) : (fillMeta d l).tag = d.tag := rfl
@[simp] theorem fillMeta_blockIndex (d : Decoded) (l : CacheLine) : (fillMeta d l).blockIndex = d.blockIndex := rfl
@[simp] theorem fillMeta_lastOffset (d : Decoded) (l : CacheLine) : (fillMeta d l).lastOffset = d.offset := rfl
@[simp] theorem fillMeta_data (d : Decoded) (l : CacheLine) : (fillMeta d l).data = l.data := rfl
@[simp] theorem fillBlock_valid (d : Decoded) (b : Vector Word 4) (l : CacheLine) : (fillBlock d b l).valid = true := rfl
@[simp] theorem fillBlock_tag (d : Decoded) (b : Vector Word 4) (l : CacheLine) : (fillBlock d b l).tag = d.tag := rfl
@[simp] theorem fillBlock_blockIndex (d : Decoded) (b : Vector Word 4) (l : CacheLine) :
    (fillBlock d b l).blockIndex = d.blockIndex := rfl
@[simp] theorem fillBlock_lastOffset (d : Decoded) (b : Vector Word 4) (l : CacheLine) :
    (fillBlock d b l).lastOffset = d.offset := rfl
@[simp] theorem fillBlock_data (d : Decoded) (b : Vector Word 4) (l : CacheLine) : (fillBlock d b l).data = b := rfl
@[simp] theorem touch_valid (d : Decoded) (l : CacheLine) : (touch d l).valid = l.valid := rfl
@[simp] theorem touch_tag (d : Decoded) (l : CacheLine) : (touch d l).tag = l.tag := rfl
@[simp] theorem touch_blockIndex (d : Decoded) (l : CacheLine) : (touch d l).blockIndex = l.blockIndex := rfl
@[simp] theorem touch_lastOffset (d : Decoded) (l : CacheLine) : (touch d l).lastOffset = d.offset := rfl
@[simp] theorem touch_data (d : Decoded) (l : CacheLine) : (touch d l).data = l.data := rfl

section WriteHit

variable (u : Bool) (d : Decoded) (v : Word) (l : CacheLine)

@[simp] theorem writeHitLine_valid : (writeHitLine u d v l).valid = l.valid := by cases u <;> rfl
@[simp] theorem writeHitLine_tag : (writeHitLine u d v l).tag = l.tag := by cases u <;> rfl
@[simp] theorem writeHitLine_blockIndex : (writeHitLine u d v l).blockIndex = l.blockIndex := by cases u <;> rfl
@[simp] theorem writeHitLine_data :
    (writeHitLine u d v l).data = l.data.set d.offset.toNat v d.offset.isLt := by cases u <;> rfl
@[simp] theorem writeHitLine_lastOffset :
    (writeHitLine u d v l).lastOffset = if u then d.offset else l.lastOffset := by cases u <;> rfl

end WriteHit

end Sys2Proof.Machine
end

