-- ==== Sys2Proof/Laws/Operands.lean ====
section
/-! SUPPORT. The laws of operands: fields of a request word, the AddressDecoder, the range checks. -/

namespace Sys2Proof

/-- A request word as a number (30_encoding.md R84). -/
theorem requestWord_toNat (op : OpCode) (a v : Word) :
    (requestWord op a v).toNat = op.toNat * 2 ^ 64 + a.toNat * 2 ^ 32 + v.toNat := by
  have h1 := a.isLt
  have h2 := v.isLt
  change BitVec.toNat (w := 3 + 32 + 32) (op ++ a ++ v) = _
  rw [BitVec.toNat_append, BitVec.toNat_append, ← Nat.shiftLeft_add_eq_or_of_lt h1, ← Nat.shiftLeft_add_eq_or_of_lt h2]
  simp only [Nat.shiftLeft_eq]
  omega

theorem reqOp_requestWord (op : OpCode) (a v : Word) : reqOp (requestWord op a v) = op := by
  apply BitVec.eq_of_toNat_eq
  have h := requestWord_toNat op a v
  have h0 := op.isLt
  have h1 := a.isLt
  have h2 := v.isLt
  simp only [reqOp, BitVec.extractLsb'_toNat, h, Nat.shiftRight_eq_div_pow]
  omega

theorem reqAddr_requestWord (op : OpCode) (a v : Word) : reqAddr (requestWord op a v) = a := by
  apply BitVec.eq_of_toNat_eq
  have h := requestWord_toNat op a v
  have h1 := a.isLt
  have h2 := v.isLt
  simp only [reqAddr, BitVec.extractLsb'_toNat, h, Nat.shiftRight_eq_div_pow]
  omega

theorem reqWdata_requestWord (op : OpCode) (a v : Word) : reqWdata (requestWord op a v) = v := by
  apply BitVec.eq_of_toNat_eq
  have h := requestWord_toNat op a v
  have h2 := v.isLt
  simp only [reqWdata, BitVec.extractLsb'_toNat, h, Nat.shiftRight_eq_div_pow]
  omega

/-- A request word is made of its three fields. -/
theorem requestWord_fields (w : RequestWord) : requestWord (reqOp w) (reqAddr w) (reqWdata w) = w := by
  apply BitVec.eq_of_toNat_eq
  have := w.isLt
  rw [requestWord_toNat]
  simp only [reqOp, reqAddr, reqWdata, BitVec.extractLsb'_toNat, Nat.shiftRight_eq_div_pow]
  omega

/-- The decoder of a word of three fields. -/
theorem decode_requestWord (op : OpCode) (a v : Word) : decode (requestWord op a v) = decodeFields op a v := by
  rw [decode, reqOp_requestWord, reqAddr_requestWord, reqWdata_requestWord]

/-- The decoder, said once: what each of the eight codes gives. -/
theorem decodeFields_cases (op : OpCode) (a v : Word) :
    (op = 0 ∧ decodeFields op a v = .reserved0) ∨ (op = 1 ∧ decodeFields op a v = .rd a) ∨
    (op = 2 ∧ decodeFields op a v = .wr a v) ∨ (op = 3 ∧ decodeFields op a v = .dec a) ∨
    (op = 4 ∧ decodeFields op a v = .srd a) ∨ (op = 5 ∧ decodeFields op a v = .reserved5) ∨
    (op = 6 ∧ decodeFields op a v = .reserved6) ∨ (op = 7 ∧ decodeFields op a v = .reserved7) := by
  have : ∀ op : OpCode, op = 0 ∨ op = 1 ∨ op = 2 ∨ op = 3 ∨ op = 4 ∨ op = 5 ∨ op = 6 ∨ op = 7 := by decide
  rcases this op with h | h | h | h | h | h | h | h <;> subst h <;> simp [decodeFields]

namespace Machine

theorem inMemory_iff (addr : Word) : inMemory addr = true ↔ addr.toNat ≤ 1023 := by
  exact decide_eq_true_iff

theorem inMemory_false_iff (addr : Word) : inMemory addr = false ↔ 1023 < addr.toNat := by
  rw [← Bool.not_eq_true, inMemory_iff]; omega

/-- An address in range is its own low 10 bits. -/
theorem lowAddr_toNat {addr : Word} (h : inMemory addr = true) : (lowAddr addr).toNat = addr.toNat := by
  have := (inMemory_iff addr).1 h
  simp [lowAddr]; omega

/-- The decoder in the source's arithmetic (40_address_decode.md R100). -/
theorem decodeAddress_toNat (a : Addr) :
    (decodeAddress a).offset.toNat = a.toNat % 4 ∧ (decodeAddress a).blockIndex.toNat = a.toNat / 4 ∧
    (decodeAddress a).line.toNat = a.toNat / 4 % 16 ∧ (decodeAddress a).tag.toNat = a.toNat / 64 := by
  have := a.isLt
  simp [decodeAddress, BitVec.extractLsb'_toNat, Nat.shiftRight_eq_div_pow]; omega

theorem wordAddress_toNat (b : BitVec 8) (w : Offset) : (wordAddress b w).toNat = b.toNat * 4 + w.toNat := by
  change BitVec.toNat (w := 8 + 2) (b ++ w) = _
  rw [BitVec.toNat_append, ← Nat.shiftLeft_add_eq_or_of_lt w.isLt, Nat.shiftLeft_eq]

/-- `blockIndex*4 + offset` is the address (40_address_decode.md R102). -/
@[simp] theorem wordAddress_decode (a : Addr) : wordAddress (decodeAddress a).blockIndex (decodeAddress a).offset = a := by
  apply BitVec.eq_of_toNat_eq
  have := decodeAddress_toNat a
  rw [wordAddress_toNat]; omega

theorem append_line_toNat (t i : BitVec 4) : (t ++ i : BitVec 8).toNat = t.toNat * 16 + i.toNat := by
  rw [BitVec.toNat_append, ← Nat.shiftLeft_add_eq_or_of_lt i.isLt, Nat.shiftLeft_eq]

/-- The block index is the tag and the line side by side (40_address_decode.md R102). -/
theorem decode_blockIndex (a : Addr) :
    (decodeAddress a).blockIndex = (decodeAddress a).tag ++ (decodeAddress a).line := by
  apply BitVec.eq_of_toNat_eq
  have := decodeAddress_toNat a
  rw [append_line_toNat]; omega

/-- Two words of one block are at one address only when they are the same word. -/
theorem wordAddress_inj {b c : BitVec 8} {w x : Offset} (h : wordAddress b w = wordAddress c x) : b = c ∧ w = x := by
  have e := congrArg BitVec.toNat h
  rw [wordAddress_toNat, wordAddress_toNat] at e
  have h1 := w.isLt
  have h2 := x.isLt
  exact ⟨BitVec.eq_of_toNat_eq (by omega), BitVec.eq_of_toNat_eq (by omega)⟩

/-- A word address in the source's arithmetic (40_address_decode.md R108). -/
theorem ofNat_eq_wordAddress (b : BitVec 8) (w : Offset) : BitVec.ofNat 10 (b.toNat * 4 + w.toNat) = wordAddress b w := by
  apply BitVec.eq_of_toNat_eq
  have := (wordAddress b w).isLt
  rw [wordAddress_toNat] at *
  rw [BitVec.toNat_ofNat]; omega

/-- The packed decomposition as a number (40_address_decode.md R105). -/
theorem packDecoded_toNat (d : Decoded) :
    (packDecoded d).toNat = d.blockIndex.toNat * 1024 + d.tag.toNat * 64 + d.line.toNat * 4 + d.offset.toNat := by
  have h1 := d.line.isLt
  have h2 := d.offset.isLt
  have h3 := d.tag.isLt
  have h : (packDecoded d).toNat = (d.blockIndex ++ d.tag ++ d.line ++ d.offset).toNat := by
    have := (d.blockIndex ++ d.tag ++ d.line ++ d.offset).isLt
    simp only [packDecoded, BitVec.toNat_setWidth]; omega
  rw [h, BitVec.toNat_append, BitVec.toNat_append, BitVec.toNat_append, ← Nat.shiftLeft_add_eq_or_of_lt h1,
    ← Nat.shiftLeft_add_eq_or_of_lt h2, ← Nat.shiftLeft_add_eq_or_of_lt h3]
  simp only [Nat.shiftLeft_eq]; omega

/-- `LINE_META` of a valid line as a number (44_status.md R143). -/
theorem packLineMeta_toNat (l : CacheLine) (h : l.valid = true) :
    (packLineMeta l).toNat = l.lastOffset.toNat * 8192 + l.blockIndex.toNat * 32 + l.tag.toNat * 2 + 1 := by
  have h3 := l.tag.isLt
  have h4 := l.blockIndex.isLt
  have e : (packLineMeta l).toNat = (l.lastOffset ++ l.blockIndex ++ l.tag ++ (1 : BitVec 1)).toNat := by
    have := (l.lastOffset ++ l.blockIndex ++ l.tag ++ (1 : BitVec 1)).isLt
    simp only [packLineMeta, h, if_true, BitVec.toNat_setWidth]; omega
  rw [e, BitVec.toNat_append, BitVec.toNat_append, BitVec.toNat_append, ← Nat.shiftLeft_add_eq_or_of_lt h3,
    ← Nat.shiftLeft_add_eq_or_of_lt h4, ← Nat.shiftLeft_add_eq_or_of_lt (by decide)]
  simp only [Nat.shiftLeft_eq]; simp; omega

/-- The number of a metadata register (44_status.md R141). -/
theorem statusReg_lineMeta (hasData : Bool) (i : LineIndex) :
    statusReg hasData (BitVec.ofNat 32 (0x010 + i.toNat)) = some (.lineMeta i) := by
  revert hasData i; decide

/-- The number of a data register (44_status.md R141). -/
theorem statusReg_lineData (i : LineIndex) (w : Offset) :
    statusReg true (BitVec.ofNat 32 (0x040 + 4 * i.toNat + w.toNat)) = some (.lineData i w) := by
  revert i w; decide

theorem isHit_iff (l : CacheLine) (d : Decoded) : isHit l d = true ↔ l.valid = true ∧ l.tag = d.tag := by
  simp [isHit]

theorem isHit_false_iff (l : CacheLine) (d : Decoded) :
    isHit l d = false ↔ (l.valid = false ∨ l.tag ≠ d.tag) := by
  rw [← Bool.not_eq_true, isHit_iff]; cases l.valid <;> simp

/-- `satinc` counts below the largest value and stays there (10_state.md R31). -/
theorem satinc_toNat (c : Word) : (satinc c).toNat = min (c.toNat + 1) (2 ^ 32 - 1) := by
  have := c.isLt
  unfold satinc
  split
  · rw [BitVec.toNat_add]; simp; omega
  · omega

end Machine

end Sys2Proof
end

