-- ==== Sys2Proof/Laws/Ops.lean ====
section
/-! SUPPORT. For each shared operation, what it can do, said once. -/

namespace Sys2Proof.Machine

section Fetch

variable (s : State) (b : BitVec 8)

@[simp] theorem fetchBlock_params : (s.fetchBlock b).params = s.params := by simp [State.fetchBlock]
@[simp] theorem fetchBlock_lines : (s.fetchBlock b).lines = s.lines := by simp [State.fetchBlock]
@[simp] theorem fetchBlock_hits : (s.fetchBlock b).hits = s.hits := by simp [State.fetchBlock]
@[simp] theorem fetchBlock_misses : (s.fetchBlock b).misses = s.misses := by simp [State.fetchBlock]
@[simp] theorem fetchBlock_evictions : (s.fetchBlock b).evictions = s.evictions := by simp [State.fetchBlock]
@[simp] theorem fetchBlock_mem : (s.fetchBlock b).mem = s.mem := by simp [State.fetchBlock]
@[simp] theorem fetchBlock_fsm : (s.fetchBlock b).fsm = s.fsm := by simp [State.fetchBlock]
@[simp] theorem fetchBlock_opQ : (s.fetchBlock b).opQ = s.opQ := by simp [State.fetchBlock]
@[simp] theorem fetchBlock_addrQ : (s.fetchBlock b).addrQ = s.addrQ := by simp [State.fetchBlock]
@[simp] theorem fetchBlock_wdataQ : (s.fetchBlock b).wdataQ = s.wdataQ := by simp [State.fetchBlock]
@[simp] theorem fetchBlock_rspStatusQ : (s.fetchBlock b).rspStatusQ = s.rspStatusQ := by simp [State.fetchBlock]
@[simp] theorem fetchBlock_rspOutcomeQ : (s.fetchBlock b).rspOutcomeQ = s.rspOutcomeQ := by simp [State.fetchBlock]
@[simp] theorem fetchBlock_rspRdataQ : (s.fetchBlock b).rspRdataQ = s.rspRdataQ := by simp [State.fetchBlock]
@[simp] theorem fetchBlock_drawn : (s.fetchBlock b).drawn = s.drawn := by simp [State.fetchBlock]
@[simp] theorem fetchBlock_stimuli : (s.fetchBlock b).stimuli = s.stimuli := by simp [State.fetchBlock]
@[simp] theorem line_fetchBlock (i : LineIndex) : (s.fetchBlock b).line i = s.line i := line_of_lines (by simp) i

/-- The four read transfers of a refill, in ascending order (20_memory.md R66). -/
@[simp] theorem fetchBlock_transfers : (s.fetchBlock b).transfers = s.transfers ++
    [.read (wordAddress b 0) (s.mem.read (wordAddress b 0)), .read (wordAddress b 1) (s.mem.read (wordAddress b 1)),
     .read (wordAddress b 2) (s.mem.read (wordAddress b 2)), .read (wordAddress b 3) (s.mem.read (wordAddress b 3))] := by
  simp [State.fetchBlock]

/-- The fill buffer holds the first three words (10_state.md R34). -/
theorem fetchBlock_fb : (s.fetchBlock b).fb =
    #v[s.mem.read (wordAddress b 0), s.mem.read (wordAddress b 1), s.mem.read (wordAddress b 2)] := by
  simp only [State.fetchBlock, readTransfer_fb, setFb_fb]
  ext i hi
  match i, hi with
  | 0, _ => simp
  | 1, _ => simp
  | 2, _ => simp

/-- Word w of a block of memory (41_lookup_fill.md R114). -/
theorem block_get (m : Memory) (w : Offset) : (m.block b)[w.toNat]'w.isLt = m.read (wordAddress b w) := by
  have : w = 0 ∨ w = 1 ∨ w = 2 ∨ w = 3 := by revert w; decide
  rcases this with h | h | h | h <;> subst h <;> rfl

end Fetch

section ReadHit

variable (d : Decoded) (s : State)

@[simp] theorem commitReadHit_params : (commitReadHit d s).params = s.params := by
  by_cases h : s.params.hasData = true <;> simp [commitReadHit, h]
@[simp] theorem commitReadHit_hits : (commitReadHit d s).hits = satinc s.hits := by
  by_cases h : s.params.hasData = true <;> simp [commitReadHit, h]
@[simp] theorem commitReadHit_misses : (commitReadHit d s).misses = s.misses := by
  by_cases h : s.params.hasData = true <;> simp [commitReadHit, h]
@[simp] theorem commitReadHit_evictions : (commitReadHit d s).evictions = s.evictions := by
  by_cases h : s.params.hasData = true <;> simp [commitReadHit, h]
@[simp] theorem commitReadHit_mem : (commitReadHit d s).mem = s.mem := by
  by_cases h : s.params.hasData = true <;> simp [commitReadHit, h]
@[simp] theorem commitReadHit_fsm : (commitReadHit d s).fsm = s.fsm := by
  by_cases h : s.params.hasData = true <;> simp [commitReadHit, h]
@[simp] theorem commitReadHit_opQ : (commitReadHit d s).opQ = s.opQ := by
  by_cases h : s.params.hasData = true <;> simp [commitReadHit, h]
@[simp] theorem commitReadHit_addrQ : (commitReadHit d s).addrQ = s.addrQ := by
  by_cases h : s.params.hasData = true <;> simp [commitReadHit, h]
@[simp] theorem commitReadHit_wdataQ : (commitReadHit d s).wdataQ = s.wdataQ := by
  by_cases h : s.params.hasData = true <;> simp [commitReadHit, h]
@[simp] theorem commitReadHit_fb : (commitReadHit d s).fb = s.fb := by
  by_cases h : s.params.hasData = true <;> simp [commitReadHit, h]
@[simp] theorem commitReadHit_rspStatusQ : (commitReadHit d s).rspStatusQ = .ok := by
  by_cases h : s.params.hasData = true <;> simp [commitReadHit, h]
@[simp] theorem commitReadHit_rspOutcomeQ : (commitReadHit d s).rspOutcomeQ = .hit := by
  by_cases h : s.params.hasData = true <;> simp [commitReadHit, h]
@[simp] theorem commitReadHit_rspRdataQ : (commitReadHit d s).rspRdataQ = 
    (if s.params.hasData then (s.line d.line).data[d.offset.toNat]'d.offset.isLt else Config.any32 s.drawn) := by
  by_cases h : s.params.hasData = true <;> simp [commitReadHit, h]
@[simp] theorem commitReadHit_transfers : (commitReadHit d s).transfers = s.transfers := by
  by_cases h : s.params.hasData = true <;> simp [commitReadHit, h]
@[simp] theorem commitReadHit_drawn : (commitReadHit d s).drawn = 
    (if s.params.hasData then s.drawn else s.drawn + 1) := by
  by_cases h : s.params.hasData = true <;> simp [commitReadHit, h]
@[simp] theorem commitReadHit_stimuli : (commitReadHit d s).stimuli = s.stimuli := by
  by_cases h : s.params.hasData = true <;> simp [commitReadHit, h]

theorem line_commitReadHit (j : LineIndex) :
    (commitReadHit d s).line j = if j = d.line then touch d (s.line d.line) else s.line j := by
  by_cases h : s.params.hasData = true <;> simp [commitReadHit, h, line_setLine]

end ReadHit

section BasicMiss

variable (d : Decoded) (s : State)

@[simp] theorem commitBasicMiss_params : (commitBasicMiss d s).params = s.params := rfl
@[simp] theorem commitBasicMiss_hits : (commitBasicMiss d s).hits = s.hits := rfl
@[simp] theorem commitBasicMiss_misses : (commitBasicMiss d s).misses = satinc s.misses := rfl
@[simp] theorem commitBasicMiss_evictions : (commitBasicMiss d s).evictions = 
    (if (s.line d.line).valid then satinc s.evictions else s.evictions) := rfl
@[simp] theorem commitBasicMiss_mem : (commitBasicMiss d s).mem = s.mem := rfl
@[simp] theorem commitBasicMiss_fsm : (commitBasicMiss d s).fsm = s.fsm := rfl
@[simp] theorem commitBasicMiss_opQ : (commitBasicMiss d s).opQ = s.opQ := rfl
@[simp] theorem commitBasicMiss_addrQ : (commitBasicMiss d s).addrQ = s.addrQ := rfl
@[simp] theorem commitBasicMiss_wdataQ : (commitBasicMiss d s).wdataQ = s.wdataQ := rfl
@[simp] theorem commitBasicMiss_fb : (commitBasicMiss d s).fb = s.fb := rfl
@[simp] theorem commitBasicMiss_rspStatusQ : (commitBasicMiss d s).rspStatusQ = .ok := rfl
@[simp] theorem commitBasicMiss_rspOutcomeQ : (commitBasicMiss d s).rspOutcomeQ = missOutcome (s.line d.line).valid := rfl
@[simp] theorem commitBasicMiss_rspRdataQ : (commitBasicMiss d s).rspRdataQ = Config.any32 s.drawn := rfl
@[simp] theorem commitBasicMiss_transfers : (commitBasicMiss d s).transfers = s.transfers := rfl
@[simp] theorem commitBasicMiss_drawn : (commitBasicMiss d s).drawn = s.drawn + 1 := rfl
@[simp] theorem commitBasicMiss_stimuli : (commitBasicMiss d s).stimuli = s.stimuli := rfl

theorem line_commitBasicMiss (j : LineIndex) :
    (commitBasicMiss d s).line j = if j = d.line then fillMeta d (s.line d.line) else s.line j := by
  simp [commitBasicMiss, line_setLine]

end BasicMiss

section Fill

variable (d : Decoded) (b : Vector Word 4) (s : State)

@[simp] theorem commitFill_params : (commitFill d b s).params = s.params := rfl
@[simp] theorem commitFill_hits : (commitFill d b s).hits = s.hits := rfl
@[simp] theorem commitFill_misses : (commitFill d b s).misses = satinc s.misses := rfl
@[simp] theorem commitFill_evictions : (commitFill d b s).evictions = 
    (if (s.line d.line).valid then satinc s.evictions else s.evictions) := rfl
@[simp] theorem commitFill_mem : (commitFill d b s).mem = s.mem := rfl
@[simp] theorem commitFill_fsm : (commitFill d b s).fsm = s.fsm := rfl
@[simp] theorem commitFill_opQ : (commitFill d b s).opQ = s.opQ := rfl
@[simp] theorem commitFill_addrQ : (commitFill d b s).addrQ = s.addrQ := rfl
@[simp] theorem commitFill_wdataQ : (commitFill d b s).wdataQ = s.wdataQ := rfl
@[simp] theorem commitFill_fb : (commitFill d b s).fb = s.fb := rfl
@[simp] theorem commitFill_rspStatusQ : (commitFill d b s).rspStatusQ = .ok := rfl
@[simp] theorem commitFill_rspOutcomeQ : (commitFill d b s).rspOutcomeQ = missOutcome (s.line d.line).valid := rfl
@[simp] theorem commitFill_rspRdataQ : (commitFill d b s).rspRdataQ = b[d.offset.toNat]'d.offset.isLt := rfl
@[simp] theorem commitFill_transfers : (commitFill d b s).transfers = s.transfers := rfl
@[simp] theorem commitFill_drawn : (commitFill d b s).drawn = s.drawn := rfl
@[simp] theorem commitFill_stimuli : (commitFill d b s).stimuli = s.stimuli := rfl

theorem line_commitFill (j : LineIndex) :
    (commitFill d b s).line j = if j = d.line then fillBlock d b (s.line d.line) else s.line j := by
  simp [commitFill, line_setLine]

end Fill

section WriteCommit

variable (d : Decoded) (v : Word) (s : State)

@[simp] theorem commitWrite_params : (commitWrite d v s).params = s.params := by
  by_cases h : isHit (s.line d.line) d = true <;> simp [commitWrite, h]
@[simp] theorem commitWrite_hits : (commitWrite d v s).hits = 
    (if isHit (s.line d.line) d then satinc s.hits else s.hits) := by
  by_cases h : isHit (s.line d.line) d = true <;> simp [commitWrite, h]
@[simp] theorem commitWrite_misses : (commitWrite d v s).misses = 
    (if isHit (s.line d.line) d then s.misses else satinc s.misses) := by
  by_cases h : isHit (s.line d.line) d = true <;> simp [commitWrite, h]
@[simp] theorem commitWrite_evictions : (commitWrite d v s).evictions = s.evictions := by
  by_cases h : isHit (s.line d.line) d = true <;> simp [commitWrite, h]
@[simp] theorem commitWrite_mem : (commitWrite d v s).mem = s.mem := by
  by_cases h : isHit (s.line d.line) d = true <;> simp [commitWrite, h]
@[simp] theorem commitWrite_fsm : (commitWrite d v s).fsm = s.fsm := by
  by_cases h : isHit (s.line d.line) d = true <;> simp [commitWrite, h]
@[simp] theorem commitWrite_opQ : (commitWrite d v s).opQ = s.opQ := by
  by_cases h : isHit (s.line d.line) d = true <;> simp [commitWrite, h]
@[simp] theorem commitWrite_addrQ : (commitWrite d v s).addrQ = s.addrQ := by
  by_cases h : isHit (s.line d.line) d = true <;> simp [commitWrite, h]
@[simp] theorem commitWrite_wdataQ : (commitWrite d v s).wdataQ = s.wdataQ := by
  by_cases h : isHit (s.line d.line) d = true <;> simp [commitWrite, h]
@[simp] theorem commitWrite_fb : (commitWrite d v s).fb = s.fb := by
  by_cases h : isHit (s.line d.line) d = true <;> simp [commitWrite, h]
@[simp] theorem commitWrite_rspStatusQ : (commitWrite d v s).rspStatusQ = .ok := by
  by_cases h : isHit (s.line d.line) d = true <;> simp [commitWrite, h]
@[simp] theorem commitWrite_rspOutcomeQ : (commitWrite d v s).rspOutcomeQ = 
    (if isHit (s.line d.line) d then .hit else .miss) := by
  by_cases h : isHit (s.line d.line) d = true <;> simp [commitWrite, h]
@[simp] theorem commitWrite_rspRdataQ : (commitWrite d v s).rspRdataQ = 0 := by
  by_cases h : isHit (s.line d.line) d = true <;> simp [commitWrite, h]
@[simp] theorem commitWrite_transfers : (commitWrite d v s).transfers = s.transfers := by
  by_cases h : isHit (s.line d.line) d = true <;> simp [commitWrite, h]
@[simp] theorem commitWrite_drawn : (commitWrite d v s).drawn = s.drawn := by
  by_cases h : isHit (s.line d.line) d = true <;> simp [commitWrite, h]
@[simp] theorem commitWrite_stimuli : (commitWrite d v s).stimuli = s.stimuli := by
  by_cases h : isHit (s.line d.line) d = true <;> simp [commitWrite, h]

theorem line_commitWrite (j : LineIndex) :
    (commitWrite d v s).line j = if j = d.line ∧ isHit (s.line d.line) d = true
      then writeHitLine s.params.wrHitUpdatesLastOffset d v (s.line d.line) else s.line j := by
  by_cases h : isHit (s.line d.line) d = true <;> simp [commitWrite, h, line_setLine]

end WriteCommit

/-! ### The same of the whole operation, from the state before its transfers -/

section Whole

variable (d : Decoded) (a : Addr) (v : Word) (b : Vector Word 4) (k : BitVec 8) (s : State)

@[simp] theorem writeReference_hits : (commitWrite d v (s.writeTransfer a v)).hits =
    (if isHit (s.line d.line) d then satinc s.hits else s.hits) :=
  commitWrite_hits d v (s.writeTransfer a v)
@[simp] theorem writeReference_misses : (commitWrite d v (s.writeTransfer a v)).misses =
    (if isHit (s.line d.line) d then s.misses else satinc s.misses) :=
  commitWrite_misses d v (s.writeTransfer a v)
@[simp] theorem writeReference_rspOutcomeQ : (commitWrite d v (s.writeTransfer a v)).rspOutcomeQ =
    (if isHit (s.line d.line) d then .hit else .miss) :=
  commitWrite_rspOutcomeQ d v (s.writeTransfer a v)

theorem line_writeReference (j : LineIndex) : (commitWrite d v (s.writeTransfer a v)).line j =
    if j = d.line ∧ isHit (s.line d.line) d = true
      then writeHitLine s.params.wrHitUpdatesLastOffset d v (s.line d.line) else s.line j :=
  line_commitWrite d v (s.writeTransfer a v) j

@[simp] theorem fillReference_evictions : (commitFill d b (s.fetchBlock k)).evictions =
    if (s.line d.line).valid then satinc s.evictions else s.evictions := by
  have h := commitFill_evictions d b (s.fetchBlock k)
  rw [line_fetchBlock, fetchBlock_evictions] at h
  exact h

@[simp] theorem fillReference_rspOutcomeQ :
    (commitFill d b (s.fetchBlock k)).rspOutcomeQ = missOutcome (s.line d.line).valid := by simp

theorem line_fillReference (j : LineIndex) : (commitFill d b (s.fetchBlock k)).line j =
    if j = d.line then fillBlock d b (s.line d.line) else s.line j := by
  simp [line_commitFill]

end Whole

@[simp] theorem line_complete (s : State) (i : LineIndex) : State.line { s with fsm := .sIdle } i = s.line i := rfl

/-- Word w of the line after a write hit. -/
theorem writeHitLine_get (u : Bool) (d : Decoded) (v : Word) (l : CacheLine) (w : Offset) :
    (writeHitLine u d v l).data[w.toNat]'w.isLt = if w = d.offset then v else l.data[w.toNat]'w.isLt := by
  simp only [writeHitLine_data]
  by_cases h : w = d.offset
  · subst h; simp
  · have : d.offset.toNat ≠ w.toNat := fun e => h (BitVec.eq_of_toNat_eq e.symm)
    rw [Vector.getElem_set_ne _ _ this]; simp [h]

/-- `satinc` as a counter after an event. -/
theorem satinc_eq_counted (c : Word) : satinc c = counted c true := by
  have h := c.isLt
  by_cases e : c = 0xFFFFFFFF
  · subst e; rfl
  · have : c.toNat ≠ 2 ^ 32 - 1 := fun k => e (BitVec.eq_of_toNat_eq k)
    have hc : c.toNat < 2 ^ 32 - 1 := by omega
    rw [satinc, counted, if_pos hc, if_pos ⟨rfl, e⟩]

@[simp] theorem counted_false (c : Word) : counted c false = c := by simp [counted]

end Sys2Proof.Machine
end

