-- ==== Sys2Proof/Laws/Exec.lean ====
section
/-! SUPPORT. Each meaning, said once: in which case it is which shared operation. The statements' proofs cite these and unfold
no meaning. -/

namespace Sys2Proof.Machine

variable (s : State)

/-- An error is the response and nothing else. -/
theorem complete_raiseError (st : Status) : complete (raiseError st s) = .next (onlyResponds s st .none 0) := rfl

/-- A response is the response and nothing else. -/
theorem complete_respond (st : Status) (o : RefOutcome) (w : Word) :
    complete (respond st o w s) = .next (onlyResponds s st o w) := rfl

theorem complete_eq : complete s = .next (s.goto .sIdle) := rfl

/-- `RD` above 1023 (42_read.md R123). -/
theorem execRd_outOfRange {addr : Word} (h : inMemory addr = false) :
    exec (.rd addr) s = .next (onlyResponds s .oob .none 0) := by
  simp [exec, execRd, h, complete_raiseError]

/-- `RD` in range that hits (42_read.md R120). -/
theorem execRd_hit {addr : Word} (h : inMemory addr = true)
    (hit : isHit (s.line (decodeAddress (lowAddr addr)).line) (decodeAddress (lowAddr addr)) = true) :
    exec (.rd addr) s = .next ((commitReadHit (decodeAddress (lowAddr addr)) s).goto .sIdle) := by
  simp [exec, execRd, readReference, h, hit, complete_eq]

/-- `RD` in range that misses, extended variant (42_read.md R120). -/
theorem execRd_fill {addr : Word} (h : inMemory addr = true) (hd : s.params.hasData = true)
    (hit : isHit (s.line (decodeAddress (lowAddr addr)).line) (decodeAddress (lowAddr addr)) = false) :
    exec (.rd addr) s = .next ((commitFill (decodeAddress (lowAddr addr))
      (s.mem.block (decodeAddress (lowAddr addr)).blockIndex)
      (s.fetchBlock (decodeAddress (lowAddr addr)).blockIndex)).goto .sIdle) := by
  simp [exec, execRd, readReference, h, hit, hd, complete_eq]

/-- `RD` in range that misses, basic variant (42_read.md R124). -/
theorem execRd_basicMiss {addr : Word} (h : inMemory addr = true) (hd : s.params.hasData = false)
    (hit : isHit (s.line (decodeAddress (lowAddr addr)).line) (decodeAddress (lowAddr addr)) = false) :
    exec (.rd addr) s = .next ((commitBasicMiss (decodeAddress (lowAddr addr)) s).goto .sIdle) := by
  simp [exec, execRd, readReference, h, hit, hd, complete_eq]

/-- `WR` in the basic variant (43_write.md R139). -/
theorem execWr_basic (addr v : Word) (hd : s.params.hasData = false) :
    exec (.wr addr v) s = .next (onlyResponds s .illegal .none 0) := by
  simp [exec, execWr, hd, complete_raiseError]

/-- `WR` above 1023 (43_write.md R138). -/
theorem execWr_outOfRange {addr : Word} (v : Word) (hd : s.params.hasData = true) (h : inMemory addr = false) :
    exec (.wr addr v) s = .next (onlyResponds s .oob .none 0) := by
  simp [exec, execWr, hd, h, complete_raiseError]

/-- `WR` in range (43_write.md R130). -/
theorem execWr_inRange {addr : Word} (v : Word) (hd : s.params.hasData = true) (h : inMemory addr = true) :
    exec (.wr addr v) s =
      .next ((commitWrite (decodeAddress (lowAddr addr)) v (s.writeTransfer (lowAddr addr) v)).goto .sIdle) := by
  simp [exec, execWr, writeReference, hd, h, complete_eq]

/-- `DEC` above 1023 (40_address_decode.md R105). -/
theorem execDec_outOfRange {addr : Word} (h : inMemory addr = false) :
    exec (.dec addr) s = .next (onlyResponds s .oob .none 0) := by
  simp [exec, execDec, h, complete_raiseError]

/-- `DEC` in range (40_address_decode.md R105). -/
theorem execDec_inRange {addr : Word} (h : inMemory addr = true) :
    exec (.dec addr) s = .next (onlyResponds s .ok .none (packDecoded (decodeAddress (lowAddr addr)))) := by
  simp [exec, execDec, h, commitDecode, complete_respond]

/-- `SRD` of an unmapped number (44_status.md R140). -/
theorem execSrd_unmapped {reg : Word} (h : statusReg s.params.hasData reg = none) :
    exec (.srd reg) s = .next (onlyResponds s .oob .none 0) := by
  simp [exec, execSrd, commitStatusRead, h, complete_raiseError]

/-- `SRD` of a status register (44_status.md R140). -/
theorem execSrd_mapped {reg : Word} {r : StatusReg} (h : statusReg s.params.hasData reg = some r) :
    exec (.srd reg) s = .next (onlyResponds s .ok .none (readStatus s r)) := by
  simp [exec, execSrd, commitStatusRead, h, complete_respond]

/-- What any operation can do, said once: it is a response and nothing else, or one of the five changes a reference in range
makes. -/
theorem exec_cases (i : Instr) :
    (∃ st w, exec i s = .next (onlyResponds s st .none w) ∧ (st ≠ .ok → w = 0)) ∨
    (∃ addr, i = .rd addr ∧ inMemory addr = true ∧
      isHit (s.line (decodeAddress (lowAddr addr)).line) (decodeAddress (lowAddr addr)) = true ∧
      exec i s = .next ((commitReadHit (decodeAddress (lowAddr addr)) s).goto .sIdle)) ∨
    (∃ addr, i = .rd addr ∧ inMemory addr = true ∧ s.params.hasData = true ∧
      isHit (s.line (decodeAddress (lowAddr addr)).line) (decodeAddress (lowAddr addr)) = false ∧
      exec i s = .next ((commitFill (decodeAddress (lowAddr addr))
        (s.mem.block (decodeAddress (lowAddr addr)).blockIndex)
        (s.fetchBlock (decodeAddress (lowAddr addr)).blockIndex)).goto .sIdle)) ∨
    (∃ addr, i = .rd addr ∧ inMemory addr = true ∧ s.params.hasData = false ∧
      isHit (s.line (decodeAddress (lowAddr addr)).line) (decodeAddress (lowAddr addr)) = false ∧
      exec i s = .next ((commitBasicMiss (decodeAddress (lowAddr addr)) s).goto .sIdle)) ∨
    (∃ addr v, i = .wr addr v ∧ inMemory addr = true ∧ s.params.hasData = true ∧
      exec i s = .next ((commitWrite (decodeAddress (lowAddr addr)) v (s.writeTransfer (lowAddr addr) v)).goto .sIdle)) := by
  cases i with
  | rd addr =>
    cases h : inMemory addr with
    | false => exact .inl ⟨.oob, 0, execRd_outOfRange s h, fun _ => rfl⟩
    | true =>
      cases hit : isHit (s.line (decodeAddress (lowAddr addr)).line) (decodeAddress (lowAddr addr)) with
      | true => exact .inr (.inl ⟨addr, rfl, h, hit, execRd_hit s h hit⟩)
      | false =>
        cases hd : s.params.hasData with
        | true => exact .inr (.inr (.inl ⟨addr, rfl, h, rfl, hit, execRd_fill s h hd hit⟩))
        | false => exact .inr (.inr (.inr (.inl ⟨addr, rfl, h, rfl, hit, execRd_basicMiss s h hd hit⟩)))
  | wr addr v =>
    cases hd : s.params.hasData with
    | false => exact .inl ⟨.illegal, 0, execWr_basic s addr v hd, fun _ => rfl⟩
    | true =>
      cases h : inMemory addr with
      | false => exact .inl ⟨.oob, 0, execWr_outOfRange s v hd h, fun _ => rfl⟩
      | true => exact .inr (.inr (.inr (.inr ⟨addr, v, rfl, h, rfl, execWr_inRange s v hd h⟩)))
  | dec addr =>
    cases h : inMemory addr with
    | false => exact .inl ⟨.oob, 0, execDec_outOfRange s h, fun _ => rfl⟩
    | true => exact .inl ⟨.ok, _, execDec_inRange s h, fun k => absurd rfl k⟩
  | srd reg =>
    cases h : statusReg s.params.hasData reg with
    | none => exact .inl ⟨.oob, 0, execSrd_unmapped s h, fun _ => rfl⟩
    | some r => exact .inl ⟨.ok, _, execSrd_mapped s h, fun k => absurd rfl k⟩
  | reserved0 => exact .inl ⟨.illegal, 0, rfl, fun _ => rfl⟩
  | reserved5 => exact .inl ⟨.illegal, 0, rfl, fun _ => rfl⟩
  | reserved6 => exact .inl ⟨.illegal, 0, rfl, fun _ => rfl⟩
  | reserved7 => exact .inl ⟨.illegal, 0, rfl, fun _ => rfl⟩

/-- What every operation that gives a next state keeps: the further stimuli and the parameters; and it ends idle. -/
theorem exec_keeps {i : Instr} {s t : State} (h : exec i s = .next t) :
    t.stimuli = s.stimuli ∧ t.fsm = .sIdle ∧ t.params = s.params := by
  rcases exec_cases s i with ⟨_, _, e, _⟩ | ⟨_, _, _, _, e⟩ | ⟨_, _, _, _, _, e⟩ | ⟨_, _, _, _, _, e⟩ | ⟨_, _, _, _, _, e⟩ <;>
    rw [e] at h <;> cases h <;> simp [onlyResponds]

end Sys2Proof.Machine
end

