-- ==== Sys2Proof/Laws/Fsm.lean ====
section
/-! SUPPORT. The laws of the signal level: what an edge does to what a later edge reads, and how an operation in progress runs
to its end. -/

namespace Sys2Proof.Machine

section Updates

variable (s : State) (f g : Fsm) (a : Addr) (j : Fin 3) (v : Word) (k : Offset)

theorem goto_goto : (s.goto f).goto g = s.goto g := rfl
theorem goto_readTransfer : (s.goto f).readTransfer a = (s.readTransfer a).goto f := rfl
theorem goto_setFb : (s.goto f).setFb j v = (s.setFb j v).goto f := rfl
theorem goto_latchedDecoded : latchedDecoded (s.goto f) = latchedDecoded s := rfl
theorem setFb_latchedDecoded : latchedDecoded (s.setFb j v) = latchedDecoded s := rfl
theorem readTransfer_latchedDecoded : latchedDecoded (s.readTransfer a) = latchedDecoded s := rfl
theorem goto_fillAddr : fillAddr (s.goto f) k = fillAddr s k := rfl
theorem setFb_fillAddr : fillAddr (s.setFb j v) k = fillAddr s k := rfl
theorem readTransfer_fillAddr : fillAddr (s.readTransfer a) k = fillAddr s k := rfl

theorem commitFill_goto (d : Decoded) (b : Vector Word 4) :
    (commitFill d b (s.goto f)).goto g = (commitFill d b s).goto g := rfl

theorem commitWrite_goto (d : Decoded) : (commitWrite d v (s.goto f)).goto g = (commitWrite d v s).goto g := by
  have e : (s.goto f).line d.line = s.line d.line := rfl
  cases h : isHit (s.line d.line) d <;> simp only [commitWrite, e, h] <;> rfl

/-- A response is a change of the response registers and, at the operation level, the return to `S_IDLE`. -/
theorem onlyResponds_eq (st : Status) (o : RefOutcome) (w : Word) :
    onlyResponds s st o w = (respond st o w s).goto .sIdle := rfl

end Updates

/-- The operation of the latches, when it is a read, is a read of the latched address. -/
theorem latchedInstr_rd {s : State} {addr : Word} (h : latchedInstr s = .rd addr) : addr = s.addrQ := by
  unfold latchedInstr at h
  rcases decodeFields_cases s.opQ s.addrQ s.wdataQ with k | k | k | k | k | k | k | k <;> rw [k.2] at h <;> cases h
  rfl

/-- The operation of the latches, when it is a write, is a write of the latched word to the latched address. -/
theorem latchedInstr_wr {s : State} {addr v : Word} (h : latchedInstr s = .wr addr v) : addr = s.addrQ ∧ v = s.wdataQ := by
  unfold latchedInstr at h
  rcases decodeFields_cases s.opQ s.addrQ s.wdataQ with k | k | k | k | k | k | k | k <;> rw [k.2] at h <;> cases h
  exact ⟨rfl, rfl⟩

theorem runEdges_append (ps qs : List Pins) (s : State) : runEdges (ps ++ qs) s = runEdges qs (runEdges ps s) := by
  induction ps generalizing s with
  | nil => rfl
  | cons p ps ih => simp [runEdges, ih]

/-- An edge with no reset, of a block that is not idle, either waits for the memory or is the quiet edge, whatever the
request signals. -/
theorem clockEdge_busy (p : Pins) (s : State) (h1 : p.rst = false) (h : s.fsm ≠ .sIdle) :
    clockEdge p s = if asksTransfer s.fsm = true ∧ p.memReady = false then s else clockEdge quietPins s := by
  cases hm : p.memReady <;> cases hf : s.fsm <;> simp [clockEdge, h1, hm, hf, asksTransfer, quietPins] at h ⊢

theorem firstEdges_succ (later : Nat → Pins) (n : Nat) :
    firstEdges later (n + 1) = later 0 :: firstEdges (fun k => later (k + 1)) n := by
  simp [firstEdges, List.range_succ_eq_map, List.map_map, Function.comp_def]

/-- A memory that grants every transfer does so from the next edge on. -/
theorem MemoryGrants.tail {s : State} {later : Nat → Pins} (h : MemoryGrants s later) :
    MemoryGrants (clockEdge (later 0) s) (fun k => later (k + 1)) := by
  intro n hn
  obtain ⟨m, h1, h2⟩ := h (n + 1) (by rw [firstEdges_succ]; exact hn)
  exact ⟨m - 1, by omega, by dsimp only; rw [show m - 1 + 1 = m by omega]; exact h2⟩

/-- An idle block with no reset and no request stays as it is. -/
theorem clockEdge_idle (p : Pins) (s : State) (h1 : p.rst = false) (h2 : p.reqValid = false) (h : s.fsm = .sIdle) :
    clockEdge p s = s := by simp [clockEdge, h1, h2, h]

theorem runEdges_idle (ps : List Pins) (s : State) (hp : ∀ q ∈ ps, q.rst = false ∧ q.reqValid = false)
    (h : s.fsm = .sIdle) : runEdges ps s = s := by
  induction ps with
  | nil => rfl
  | cons p ps ih =>
    simp only [runEdges]
    rw [clockEdge_idle p s (hp p (by simp)).1 (hp p (by simp)).2 h]
    exact ih fun q hq => hp q (by simp [hq])

/-- How many edges with a ready memory an operation still needs, at most. -/
def edgesLeft : Fsm → Nat
  | .sIdle => 0
  | .sResp => 1
  | .sFill3 => 2
  | .sFill2 => 3
  | .sFill1 => 4
  | .sFill0 => 5
  | .sWmem => 2
  | .sExec => 6

theorem edgesLeft_le (f : Fsm) : edgesLeft f ≤ 6 := by cases f <;> decide

theorem edgesLeft_edgeExec (s : State) : edgesLeft (edgeExec s).fsm < 6 := by
  unfold edgeExec
  split
  · split
    · split <;> (try split) <;> (try split) <;> simp [edgesLeft]
    · simp [edgesLeft]
  · simp [edgesLeft]

/-- Every edge with a ready memory brings an operation nearer to its end. -/
theorem edgesLeft_clockEdge (s : State) (h : s.fsm ≠ .sIdle) : edgesLeft (clockEdge quietPins s).fsm < edgesLeft s.fsm := by
  cases hf : s.fsm <;> simp [clockEdge, quietPins, hf, edgeFill, edgeFillLast, edgeWrite, edgesLeft] at h ⊢
  exact edgesLeft_edgeExec s

theorem runEdges_replicate_idle (n : Nat) (s : State) (h : edgesLeft s.fsm ≤ n) :
    (runEdges (List.replicate n quietPins) s).fsm = .sIdle := by
  induction n generalizing s with
  | zero => cases hf : s.fsm <;> simp [edgesLeft, hf] at h; simpa [runEdges] using hf
  | succ n ih =>
    rw [List.replicate_succ]
    simp only [runEdges]
    apply ih
    by_cases hf : s.fsm = .sIdle
    · rw [clockEdge_idle _ _ rfl rfl hf, hf]; simp [edgesLeft]
    · have := edgesLeft_clockEdge s hf; omega

theorem completeInFlight_fsm (s : State) : (completeInFlight s).fsm = .sIdle :=
  runEdges_replicate_idle 6 s (edgesLeft_le _)

/-- One edge of an operation leaves the end it runs to as it was. -/
theorem completeInFlight_clockEdge (s : State) : completeInFlight (clockEdge quietPins s) = completeInFlight s := by
  have e : completeInFlight (clockEdge quietPins s) = runEdges (List.replicate 6 quietPins ++ [quietPins]) s := rfl
  rw [e, runEdges_append]
  exact clockEdge_idle quietPins _ rfl rfl (completeInFlight_fsm s)

/-- From `S_RESP` an operation only returns to `S_IDLE` (45_control_fsm.md R152). -/
theorem completeInFlight_resp (s : State) (h : s.fsm = .sResp) : completeInFlight s = s.goto .sIdle := by
  rw [← completeInFlight_clockEdge, show clockEdge quietPins s = s.goto .sIdle by simp [clockEdge, quietPins, h]]
  exact runEdges_idle _ _ (by intro q hq; rw [List.eq_of_mem_replicate hq]; exact ⟨rfl, rfl⟩) rfl

/-- From `S_WMEM` an operation makes its write transfer and its commit (45_control_fsm.md R158). -/
theorem completeInFlight_write (s : State) (h : s.fsm = .sWmem) :
    completeInFlight s =
      (commitWrite (latchedDecoded s) s.wdataQ (s.writeTransfer (lowAddr s.addrQ) s.wdataQ)).goto .sIdle := by
  rw [← completeInFlight_clockEdge, show clockEdge quietPins s = edgeWrite s by simp [clockEdge, quietPins, h],
    completeInFlight_resp _ rfl]
  rfl

end Sys2Proof.Machine
end

