-- ==== Sys2Proof/Laws/Invariant.lean ====
section
/-! SUPPORT. The invariant under changes that do not touch what it speaks of. -/

namespace Sys2Proof.Machine

theorem inFlight_atRest {t : State} (h : t.fsm = .sIdle ∨ t.fsm = .sExec ∨ t.fsm = .sResp) : InFlight t := by
  rcases h with h | h | h <;> simp [InFlight, h]

/-- A change that leaves lines, misses, evictions, memory, history and parameters as they are keeps the invariant. -/
theorem Inv.of_same {s t : State} (h : Inv s) (hp : t.params = s.params) (hl : t.lines = s.lines) (hm : t.misses = s.misses)
    (he : t.evictions = s.evictions) (hmem : t.mem = s.mem) (ht : t.transfers = s.transfers) (hf : InFlight t) : Inv t where
  memoryForm := by rw [hmem]; exact h.memoryForm
  memoryIsHistory := by rw [hmem, ht]; exact h.memoryIsHistory
  readsCoherent := by rw [ht]; exact h.readsCoherent
  blockIndexAgrees := by intro i; rw [line_of_lines hl]; exact h.blockIndexAgrees i
  copies := by rw [hp, hmem]; intro hd i; simp only [line_of_lines hl]; exact h.copies hd i
  evictionsBounded := by rw [hm, he]; exact h.evictionsBounded
  basicHasNoMemory := by rw [hp, hmem, ht]; exact h.basicHasNoMemory
  inFlight := hf

theorem satinc_le_satinc {a b : Word} (h : a.toNat ≤ b.toNat) : (satinc a).toNat ≤ (satinc b).toNat := by
  rw [satinc_toNat, satinc_toNat]; omega

theorem le_satinc (b : Word) : b.toNat ≤ (satinc b).toNat := by
  have := b.isLt
  rw [satinc_toNat]; omega

/-- A line that hits holds the block that was asked for. -/
theorem blockIndex_of_isHit (a : Addr) (l : CacheLine) (h : isHit l (decodeAddress a) = true)
    (hb : l.blockIndex = l.tag ++ (decodeAddress a).line) : l.blockIndex = (decodeAddress a).blockIndex := by
  rw [hb, ((isHit_iff _ _).1 h).2, decode_blockIndex]

end Sys2Proof.Machine
end

