-- ==== Sys2Proof/Laws/PerInstr.lean ====
section
/-! SUPPORT. Statements made per operation: the encoding of each against its row of spec/opcode_table.json. -/

/-- The bits of the request word that the opcode table fixes for an operation, its three bits 66..64, as the row's value in
place. -/
def Sys2Proof.Laws.TableRow.matchBits : Sys2Proof.Instr → Sys2Proof.RequestWord
  | .reserved0 => 0x00000000000000000#67
  | .rd _ => 0x10000000000000000#67
  | .wr _ _ => 0x20000000000000000#67
  | .dec _ => 0x30000000000000000#67
  | .srd _ => 0x40000000000000000#67
  | .reserved5 => 0x50000000000000000#67
  | .reserved6 => 0x60000000000000000#67
  | .reserved7 => 0x70000000000000000#67

/-- 30_encoding.md R85, R98: the encoding of an operation has its table row's bits under the table's mask. -/
def Sys2Proof.Laws.TableRow.Statement (i : Sys2Proof.Instr) : Prop :=
  Sys2Proof.encode i &&& 0x70000000000000000#67 = Sys2Proof.Laws.TableRow.matchBits i

/-- The mask picks the operation code of a request word. -/
theorem Sys2Proof.Laws.TableRow.mask_requestWord (op : Sys2Proof.OpCode) (a v : Sys2Proof.Word) :
    Sys2Proof.requestWord op a v &&& 0x70000000000000000#67 = Sys2Proof.requestWord op 0 0 := by
  apply BitVec.eq_of_toNat_eq
  have h1 := a.isLt
  have h2 := v.isLt
  have h0 := op.isLt
  have e : (0x70000000000000000#67).toNat = 2 ^ 64 * (2 ^ 3 - 1) := rfl
  have hlow : a.toNat * 2 ^ 32 + v.toNat < 2 ^ 64 := by omega
  rw [BitVec.toNat_and, Sys2Proof.requestWord_toNat, Sys2Proof.requestWord_toNat, e, Nat.add_assoc, Nat.mul_comm op.toNat]
  have hz : 2 ^ 64 * op.toNat + (0 : Sys2Proof.Word).toNat * 2 ^ 32 + (0 : Sys2Proof.Word).toNat = 2 ^ 64 * op.toNat := rfl
  rw [hz]
  apply Nat.eq_of_testBit_eq
  intro n
  rw [Nat.testBit_and, Nat.testBit_two_pow_mul_add _ hlow, Nat.testBit_two_pow_mul, Nat.testBit_two_pow_mul,
    Nat.testBit_two_pow_sub_one]
  by_cases hn : n < 64
  · have : ¬ 64 ≤ n := by omega
    simp [hn, this]
  · rw [if_neg hn]
    by_cases hm : n - 64 < 3
    · simp [hm, Bool.and_comm]
    · have : op.toNat.testBit (n - 64) = false := Nat.testBit_lt_two_pow
        (lt_of_lt_of_le h0 (Nat.pow_le_pow_right (by omega) (by omega)))
      simp [this]

theorem Sys2Proof.Laws.TableRow.rd (addr : Sys2Proof.Word) : Sys2Proof.Laws.TableRow.Statement (.rd addr) :=
  (Sys2Proof.Laws.TableRow.mask_requestWord 1 addr 0).trans rfl

theorem Sys2Proof.Laws.TableRow.wr (addr wdata : Sys2Proof.Word) : Sys2Proof.Laws.TableRow.Statement (.wr addr wdata) :=
  (Sys2Proof.Laws.TableRow.mask_requestWord 2 addr wdata).trans rfl

theorem Sys2Proof.Laws.TableRow.dec (addr : Sys2Proof.Word) : Sys2Proof.Laws.TableRow.Statement (.dec addr) :=
  (Sys2Proof.Laws.TableRow.mask_requestWord 3 addr 0).trans rfl

theorem Sys2Proof.Laws.TableRow.srd (reg : Sys2Proof.Word) : Sys2Proof.Laws.TableRow.Statement (.srd reg) :=
  (Sys2Proof.Laws.TableRow.mask_requestWord 4 reg 0).trans rfl

theorem Sys2Proof.Laws.TableRow.reserved0 : Sys2Proof.Laws.TableRow.Statement .reserved0 :=
  Sys2Proof.Laws.TableRow.mask_requestWord _ _ _

theorem Sys2Proof.Laws.TableRow.reserved5 : Sys2Proof.Laws.TableRow.Statement .reserved5 :=
  Sys2Proof.Laws.TableRow.mask_requestWord _ _ _

theorem Sys2Proof.Laws.TableRow.reserved6 : Sys2Proof.Laws.TableRow.Statement .reserved6 :=
  Sys2Proof.Laws.TableRow.mask_requestWord _ _ _

theorem Sys2Proof.Laws.TableRow.reserved7 : Sys2Proof.Laws.TableRow.Statement .reserved7 :=
  Sys2Proof.Laws.TableRow.mask_requestWord _ _ _
end

