-- ==== Sys2Proof/Tests/Slice0.lean ====
section
/-! SUPPORT. Tests of the model against 95_test_vectors.md and the tables of the spec, and for every statement with hypotheses a
state and operands that meet them. Expected values are the spec's. -/

open Sys2Proof Sys2Proof.Machine

namespace Sys2Proof.Tests

/-! ### Small states -/

def extended : Params := ⟨true, false⟩
def updating : Params := ⟨true, true⟩
def basic : Params := ⟨false, false⟩

/-- Block 1 of the pattern `PAT` (95_test_vectors.md), as four writes leave it. -/
def patBlock : Memory :=
  (((Memory.write [] 4 0xA5000004).write 5 0xA5000005).write 6 0xA5000006).write 7 0xA5000007

/-- The writes that left it. -/
def patWrites : List Transfer :=
  [.write 4 0xA5000004, .write 5 0xA5000005, .write 6 0xA5000006, .write 7 0xA5000007]

/-- A block after power-up whose memory holds `PAT` in block 1. -/
def cold (p : Params) : State := { State.powerUp p with mem := patBlock, transfers := patWrites }

/-- Line 1 holding block 1 of `PAT`. -/
def patLine : CacheLine := ⟨true, 0, 1, 0, #v[0xA5000004, 0xA5000005, 0xA5000006, 0xA5000007]⟩

/-- The same block with line 1 holding block 1. -/
def warm (p : Params) : State := (cold p).setLine 1 patLine

/-- The basic variant with line 1 holding block 1. -/
def warmBasic : State := (State.powerUp basic).setLine 1 patLine

/-- The state an operation ends in. -/
def post (i : Instr) (s : State) : State :=
  match exec i s with
  | .next t => t
  | .fault _ => s
  | .refused _ => s

/-- The response an operation gives. -/
def answer (i : Instr) (s : State) : Status × RefOutcome × Word :=
  ((post i s).rspStatusQ, (post i s).rspOutcomeQ, (post i s).rspRdataQ)

/-! ### Constants (00_scope.md R7, R8) -/

theorem test_constants : Config.nLines = 16 ∧ Config.wordsPerBlock = 4 ∧ Config.nBlocks = 256 ∧ Config.nWords = 1024 ∧
    Config.maxAddr = 1023 := by decide

/-! ### Well-formedness: an ill-formed term for each check -/

theorem test_fits_refuses_68_bits : RequestWord.fits (2 ^ 67) = false ∧ RequestWord.fits (2 ^ 67 - 1) = true := by decide
theorem test_legal_refuses_reserved : ∀ b : Bool, Instr.legal b .reserved0 = false ∧ Instr.legal b .reserved5 = false ∧
    Instr.legal b .reserved6 = false ∧ Instr.legal b .reserved7 = false := by decide
theorem test_legal_refuses_basic_write : Instr.legal false (.wr 0 1) = false ∧ Instr.legal true (.wr 0 1) = true := by decide
theorem test_decodeNumber_refuses : decodeNumber (2 ^ 67) = .error .widerThanARequest := by rfl

/-! ### Decoding: words written out from 30_encoding.md R84 and R85, op in bits 66..64, addr in 63..32, wdata in 31..0 -/

theorem test_decode_reserved0 : decode
    0b000_00000000000000000000000000000101_00000000000000000000000000101010#67 = .reserved0 := by rfl
theorem test_decode_rd : decode
    0b001_10000000000000000000000000000101_00000000000000000000000000101010#67 = .rd 0x80000005 := by rfl
theorem test_decode_wr : decode
    0b010_00000000000000000000000000000101_00000000000000000000000000101010#67 = .wr 5 42 := by rfl
theorem test_decode_dec : decode
    0b011_00000000000000000000001010100111_11011110101011011011111011101111#67 = .dec 679 := by rfl
theorem test_decode_srd : decode
    0b100_00000000000000000000000000010001_00000000000000000000000000000000#67 = .srd 0x11 := by rfl
theorem test_decode_reserved5 : decode
    0b101_00000000000000000000000000000101_00000000000000000000000000000000#67 = .reserved5 := by rfl
theorem test_decode_reserved6 : decode
    0b110_00000000000000000000000000000101_00000000000000000000000000001001#67 = .reserved6 := by rfl
theorem test_decode_reserved7 : decode
    0b111_11111111111111111111111111111111_00000000000000000000000000000000#67 = .reserved7 := by rfl
theorem test_decodeTableWord : decodeTableWord 67 0x2000000050000002A = some (.wr 5 42) := by rfl
theorem test_encode_wr : encode (.wr 5 42) = 0x2000000050000002A#67 := by rfl
theorem test_encode_srd : encode (.srd 0x11) = 0x40000001100000000#67 := by rfl

/-! ### DEC (95_test_vectors.md V5) -/

theorem test_dec_679 : answer (.dec 679) (cold extended) = (.ok, .none, 0x0002A6A7) := by decide
theorem test_dec_1029 : answer (.dec 1029) (cold extended) = (.oob, .none, 0) := by decide

/-! ### RD (V2, V6, V15) -/

theorem test_rd_cold_miss : answer (.rd 5) (cold extended) = (.ok, .miss, 0xA5000005) ∧
    (post (.rd 5) (cold extended)).line 1 = { patLine with lastOffset := 1 } := by decide
theorem test_rd_hit : answer (.rd 7) (warm extended) = (.ok, .hit, 0xA5000007) ∧
    (post (.rd 7) (warm extended)).line 1 = { patLine with lastOffset := 3 } := by decide

/-! ### WR (V7, V17) -/

theorem test_wr_hit : answer (.wr 6 0x77) (warm extended) = (.ok, .hit, 0) ∧
    ((post (.wr 6 0x77) (warm extended)).line 1).data = #v[0xA5000004, 0xA5000005, 0x77, 0xA5000007] ∧
    packLineMeta ((post (.wr 6 0x77) (warm extended)).line 1) = 0x00000021 ∧
    packLineMeta ((post (.wr 6 0x77) (warm updating)).line 1) = 0x00004021 := by decide
theorem test_wr_conflict_miss : answer (.wr 69 7) (warm extended) = (.ok, .miss, 0) ∧
    (post (.wr 69 7) (warm extended)).line 1 = patLine ∧ (post (.wr 69 7) (warm extended)).mem.read 69 = 7 ∧
    (post (.wr 69 7) (warm extended)).evictions = 0 := by decide

/-! ### SRD (V8) -/

theorem test_srd_line : answer (.srd 0x011) ((warm extended).setLine 1 { patLine with lastOffset := 1 }) =
      (.ok, .none, 0x00002021) ∧
    answer (.srd 0x045) (warm extended) = (.ok, .none, 0xA5000005) := by decide
theorem test_srd_unmapped : answer (.srd 0x003) (warm extended) = (.oob, .none, 0) ∧
    answer (.srd 0x045) warmBasic = (.oob, .none, 0) ∧ answer (.srd 0x400) (warm extended) = (.oob, .none, 0) := by decide

/-! ### Reserved codes (V9): `0x800000000` -/

theorem test_reserved0 : responseWord (post .reserved0 (warm extended)) = 0x800000000#36 := by decide
theorem test_reserved5 : responseWord (post .reserved5 (warm extended)) = 0x800000000#36 := by decide
theorem test_reserved6 : responseWord (post .reserved6 (warm extended)) = 0x800000000#36 := by decide
theorem test_reserved7 : responseWord (post .reserved7 (warm extended)) = 0x800000000#36 := by decide

/-! ### The counters (10_state.md R31) and LINE_META (44_status.md R143, V12) -/

theorem test_satinc : satinc 0xFFFFFFFF = 0xFFFFFFFF ∧ satinc 0xFFFFFFFE = 0xFFFFFFFF := by decide
theorem test_packLineMeta : packLineMeta ⟨true, 1, 18, 1, #v[0, 0, 0, 0]⟩ = 0x00002243 := by decide

/-! ### Traces (30_encoding.md R94, R95) -/

theorem test_parse_write : parseLine "WR 5, 0x2A -> OK MISS 0 ; comment".toList =
    some (.op (.wr 5 42), some ⟨.ok, .miss, some 0⟩) := by decide
theorem test_parse_line : parseLine "LINE 16".toList = none ∧ parseLine "LINE 15".toList = some (.line 15, none) := by decide

/-! ### Signals: `WR 5, 42` with the memory ready (45_control_fsm.md R152), and a reset in `S_WMEM` (V11) -/

def requestPins (op : OpCode) (addr wdata : Word) : Pins := ⟨false, true, op, addr, wdata, true⟩
def resetPins : Pins := ⟨true, false, 0, 0, 0, true⟩
def waitPins : Pins := ⟨false, false, 0, 0, 0, false⟩

theorem test_write_trace :
    (runEdges [requestPins 2 5 42] (cold extended)).fsm = .sExec ∧
    (runEdges [requestPins 2 5 42, quietPins] (cold extended)).fsm = .sWmem ∧
    (runEdges [requestPins 2 5 42, quietPins, quietPins] (cold extended)).fsm = .sResp ∧
    (runEdges [requestPins 2 5 42, quietPins, quietPins] (cold extended)).mem.read 5 = 42 := by decide
theorem test_reset_in_sWmem :
    (runEdges [requestPins 2 5 42, quietPins, resetPins] (cold extended)).mem.read 5 = 0xA5000005 ∧
    (runEdges [requestPins 2 5 42, quietPins, resetPins] (cold extended)).fsm = .sIdle := by decide

/-! ### States that meet the invariant -/

theorem patBlock_is_history (a : Addr) : Memory.read patBlock a = lastWritten patWrites a := by
  simp only [patBlock, patWrites, Memory.read_write, lastWritten, List.foldl, afterTransfer, @eq_comm Addr a]
  rfl

theorem patWrites_no_read (a : Addr) (v : Word) (b c : List Transfer) : patWrites ≠ b ++ .read a v :: c := by
  intro e
  have : Transfer.read a v ∈ patWrites := by rw [e]; simp
  simp [patWrites] at this

/-- A valid line, a memory with a history, in the extended variant. -/
theorem warm_inv : Inv (warm extended) where
  memoryForm := by decide
  memoryIsHistory := patBlock_is_history
  readsCoherent := fun b a v c e => absurd e (patWrites_no_read a v b c)
  blockIndexAgrees := by decide
  copies := by intro _; decide
  evictionsBounded := by decide
  basicHasNoMemory := fun h => absurd h (by decide)
  inFlight := trivial

/-- A valid line in the basic variant, which has no memory. -/
theorem warmBasic_inv : Inv warmBasic where
  memoryForm := rfl
  memoryIsHistory := fun _ => rfl
  readsCoherent := fun b _ _ _ e => by cases b <;> cases e
  blockIndexAgrees := by decide
  copies := fun h => absurd h (by decide)
  evictionsBounded := by decide
  basicHasNoMemory := fun _ => ⟨rfl, rfl⟩
  inFlight := trivial

/-- A write waiting for its transfer. -/
def writing : State := { warm extended with fsm := .sWmem, opQ := 2, addrQ := 5, wdataQ := 42 }

theorem writing_inv : Inv writing := warm_inv.of_same rfl rfl rfl rfl rfl rfl ⟨rfl, rfl, rfl⟩

/-- A refill of block 17 waiting for its second word. -/
def refilling : State :=
  { warm extended with fsm := .sFill1, opQ := 1, addrQ := 69, fb := #v[Config.memInit 68, 0, 0] }

theorem refilling_inv : Inv refilling := warm_inv.of_same rfl rfl rfl rfl rfl rfl
  ⟨rfl, rfl, rfl, rfl, fun k hk => by
    have : k = 0 := Fin.ext (by omega)
    subst this; rfl⟩

/-! ### What meets the hypotheses of each statement -/

theorem witness_IgnoredWriteDataChangesNothing : (warm extended).fsm = .sIdle ∧ (0b001 : OpCode) ≠ 0b010 := by decide
theorem witness_LineSelectionDependsOnTheBlock : (4 : Addr) >>> 2 = (7 : Addr) >>> 2 ∧ (1020 : Addr) >>> 2 = (1023 : Addr) >>> 2 ∧
    (decodeAddress (wordAddress 17 3)).line = 1 := by decide
theorem witness_DecAnswersTheDecomposition : (1023 : Word).toNat ≤ 1023 ∧ 1023 < (1024 : Word).toNat ∧
    exec (.dec 1023) (warm extended) = .next (onlyResponds (warm extended) .ok .none 0x0003FFFF) ∧
    exec (.dec 1024) (warm extended) = .next (onlyResponds (warm extended) .oob .none 0) := ⟨by decide, by decide, rfl, rfl⟩
theorem witness_SrdShowsLineMetadata : Inv (warm extended) ∧ ((warm extended).line 1).valid = true ∧
    ((warm extended).line 15).valid = false := ⟨warm_inv, rfl, rfl⟩
theorem witness_SrdShowsLineData : (warm extended).params.hasData = true ∧ Inv (warm extended) ∧
    ((warm extended).line 1).valid = true ∧ ((warm extended).line 15).valid = false ∧
    answer (.srd 0x047) (warm extended) = (.ok, .none, 0xA5000007) ∧ answer (.srd 0x07F) (warm extended) = (.ok, .none, 0) :=
  ⟨rfl, warm_inv, rfl, rfl, by decide, by decide⟩
theorem witness_SrdUnmappedIsOutOfBounds :
    answer (.srd 0x00F) (warm extended) = (.oob, .none, 0) ∧ answer (.srd 0x020) (warm extended) = (.oob, .none, 0) ∧
    answer (.srd 0x03F) (warm extended) = (.oob, .none, 0) ∧ answer (.srd 0x080) (warm extended) = (.oob, .none, 0) ∧
    answer (.srd 0xFFFFFFFF) (warm extended) = (.oob, .none, 0) ∧ warmBasic.params.hasData = false ∧
    answer (.srd 0x040) warmBasic = (.oob, .none, 0) ∧ answer (.srd 0x07F) warmBasic = (.oob, .none, 0) := by decide
theorem witness_ReservedCodesAnswerIllegal : warmBasic.params.hasData = false ∧
    exec (.wr 1024 1) warmBasic = .next (onlyResponds warmBasic .illegal .none 0) := ⟨rfl, rfl⟩
theorem witness_AddressesAbove1023AreOutOfBounds : 1023 < (1024 : Word).toNat ∧ (warm extended).params.hasData = true ∧
    answer (.wr 0x80000005 1) (warm extended) = (.oob, .none, 0) ∧ answer (.rd 1024) (warm extended) = (.oob, .none, 0) := by
  decide
theorem witness_StatusFollowsTheOrderOfChecks : answer (.wr 1024 1) warmBasic = (.illegal, .none, 0) ∧
    answer (.wr 1024 1) (warm extended) = (.oob, .none, 0) ∧ answer (.wr 1023 1) (warm extended) = (.ok, .miss, 0) := by decide
theorem witness_ErrorsChangeNothing : exec (.rd 1024) (warm extended) = .next (post (.rd 1024) (warm extended)) ∧
    (post (.rd 1024) (warm extended)).rspStatusQ ≠ .ok := ⟨rfl, by decide⟩
theorem witness_RdHitReturnsTheCachedWord : (warm extended).params.hasData = true ∧ (7 : Word).toNat ≤ 1023 ∧
    ((warm extended).line (decodeAddress (lowAddr 7)).line).valid = true ∧
    ((warm extended).line (decodeAddress (lowAddr 7)).line).tag = (decodeAddress (lowAddr 7)).tag := by decide
theorem witness_RdMissFillsTheLine : (warm extended).params.hasData = true ∧
    ((1023 : Word).toNat ≤ 1023 ∧ ((warm extended).line (decodeAddress (lowAddr 1023)).line).valid = false) ∧
    ((69 : Word).toNat ≤ 1023 ∧ ((warm extended).line (decodeAddress (lowAddr 69)).line).valid = true ∧
      ((warm extended).line (decodeAddress (lowAddr 69)).line).tag ≠ (decodeAddress (lowAddr 69)).tag) := by decide
theorem witness_RdOfTheBasicVariant : warmBasic.params.hasData = false ∧
    (post (.rd 7) warmBasic).rspOutcomeQ = .hit ∧ (post (.rd 69) warmBasic).rspOutcomeQ = .missEvict ∧
    (post (.rd 1023) warmBasic).rspOutcomeQ = .miss := by decide
theorem witness_WrHitIsWriteThrough : (warm extended).params.hasData = true ∧ (warm updating).params.hasData = true ∧
    (4 : Word).toNat ≤ 1023 ∧ ((warm extended).line (decodeAddress (lowAddr 4)).line).valid = true ∧
    ((warm extended).line (decodeAddress (lowAddr 4)).line).tag = (decodeAddress (lowAddr 4)).tag ∧
    (warm updating).line (decodeAddress (lowAddr 4)).line = patLine := by decide
theorem witness_WrMissIsWriteAround : (cold extended).params.hasData = true ∧ (1023 : Word).toNat ≤ 1023 ∧
    (post (.wr 1023 0xFFFFFFFF) (cold extended)).rspOutcomeQ = .miss ∧
    (post (.wr 69 7) (warm extended)).rspOutcomeQ = .miss := by decide
theorem witness_ReadAfterWriteMissStillMisses : (warm extended).params.hasData = true ∧ (69 : Word).toNat ≤ 1023 ∧
    ¬ (((warm extended).line (decodeAddress (lowAddr 69)).line).valid = true ∧
       ((warm extended).line (decodeAddress (lowAddr 69)).line).tag = (decodeAddress (lowAddr 69)).tag) := by decide
theorem witness_OneLineAndOneWordAtMost : exec (.wr 5 42) (warm extended) = .next (post (.wr 5 42) (warm extended)) ∧
    (post (.wr 5 42) (warm extended)).line 1 ≠ (warm extended).line 1 ∧
    (post (.wr 5 42) (warm extended)).mem.read 5 ≠ (warm extended).mem.read 5 := ⟨rfl, by decide, by decide⟩
theorem witness_OnlyAReadValidatesALine : exec (.rd 5) (cold extended) = .next (post (.rd 5) (cold extended)) ∧
    ((cold extended).line 1).valid = false ∧ ((post (.rd 5) (cold extended)).line 1).valid = true ∧
    ((warm extended).line 1).valid = true := ⟨rfl, by decide, by decide, by decide⟩
theorem witness_CountersRiseByOneAtMost : exec (.rd 69) (warm extended) = .next (post (.rd 69) (warm extended)) ∧
    ((post (.rd 69) (warm extended)).hits, (post (.rd 69) (warm extended)).misses,
      (post (.rd 69) (warm extended)).evictions) = (0, 1, 1) := ⟨rfl, by decide⟩
theorem witness_AReadMakesItsBlockHit : (4 : Word).toNat ≤ 1023 ∧ (7 : Word).toNat ≤ 1023 ∧ (4 : Word) >>> 2 = (7 : Word) >>> 2 ∧
    (1020 : Word) >>> 2 = (1023 : Word) >>> 2 ∧ (warm extended).params.hasData = true ∧ Inv (warm extended) ∧ Inv warmBasic :=
  ⟨by decide, by decide, by decide, by decide, rfl, warm_inv, warmBasic_inv⟩
theorem witness_ConflictingReadAlwaysEvicts : (4 : Word).toNat ≤ 1023 ∧ (1023 : Word).toNat ≤ 1023 ∧ (63 : Word).toNat ≤ 1023 ∧
    (decodeAddress (lowAddr 1023)).line = (decodeAddress (lowAddr 63)).line ∧
    (decodeAddress (lowAddr 1023)).tag ≠ (decodeAddress (lowAddr 63)).tag := by decide
theorem witness_StepRunsTheDecodedOperation :
    ({ warm extended with stimuli := [.request (encode (.rd 5))] } : State).fsm = .sIdle ∧
    ({ warm extended with stimuli := [.request (encode (.rd 5))] } : State).stimuli = .request (encode (.rd 5)) :: [] :=
  ⟨rfl, rfl⟩
theorem witness_PlacedWordRunsNext : decodeTableWord 67 0x10000000500000000 = some (.rd 5) := by rfl
theorem witness_StepIdlesOrResets : State.reset.fsm = .sIdle ∧ State.reset.stimuli = [] ∧
    ({ warm extended with stimuli := [.rst] } : State).stimuli = .rst :: [] := ⟨rfl, rfl, rfl⟩
theorem witness_EveryStepKeepsTheInvariant : Inv (warm extended) ∧ Inv warmBasic ∧ Inv writing ∧ Inv refilling ∧
    step warmBasic = .next warmBasic ∧ step writing = .next (completeInFlight writing) :=
  ⟨warm_inv, warmBasic_inv, writing_inv, refilling_inv, rfl, rfl⟩
theorem witness_EveryClockEdgeKeepsTheInvariant : Inv warmBasic ∧ Inv writing ∧ Inv refilling ∧
    (clockEdge quietPins refilling).fsm = .sFill2 := ⟨warmBasic_inv, writing_inv, refilling_inv, rfl⟩
theorem witness_RdReturnsTheMemoryWord : Inv (warm extended) ∧ (warm extended).params.hasData = true ∧
    (7 : Word).toNat ≤ 1023 ∧ (1023 : Word).toNat ≤ 1023 := ⟨warm_inv, rfl, by decide, by decide⟩

/-- Traffic that does not write word 5. -/
def traffic : List Stimulus := [.request (encode (.rd 69)), .rst, .request (encode (.wr 69 7))]

/-- A write to word 5, the traffic, a read of it. -/
def busy : State :=
  { warm extended with stimuli := .request (encode (.wr 5 42)) :: (traffic ++ [.request (encode (.rd 5))]) }

theorem witness_ReadsReturnTheLatestWrite : Inv busy ∧ busy.params.hasData = true ∧ busy.fsm = .sIdle ∧ (5 : Word).toNat ≤ 1023 ∧
    busy.stimuli = .request (encode (.wr 5 42)) :: (traffic ++ [.request (encode (.rd 5))]) ∧
    (∀ x ∈ traffic, writesWord 5 x = false) ∧ extended.hasData = true :=
  ⟨warm_inv.of_same rfl rfl rfl rfl rfl rfl trivial, rfl, rfl, by decide, rfl, by decide, rfl⟩
theorem witness_CountersAccountForTheRun :
    ({ warm extended with stimuli := [encode (.rd 69), encode (.srd 0)].map Stimulus.request } : State).fsm = .sIdle ∧
    (warm extended).hits.toNat + 2 < 2 ^ 32 ∧ (warm extended).misses.toNat + 2 < 2 ^ 32 ∧
    (warm extended).evictions.toNat + 2 < 2 ^ 32 := by decide
theorem witness_ABlockIsInOneLineAtMost : Inv (warm extended) ∧ ((warm extended).line 1).valid = true ∧
    ((warm extended).line 1).blockIndex = 1 := ⟨warm_inv, rfl, rfl⟩
theorem witness_SnapshotsReadOneState :
    ({ warm extended with stimuli := present (snapshotReads true) } : State).fsm = .sIdle ∧
    (∀ i ∈ snapshotReads true, ∃ r : Word, i = .srd r ∨ i = .dec r) := by
  refine ⟨rfl, fun i hi => ?_⟩
  simp only [snapshotReads, lineReads, if_true, List.mem_flatMap, List.mem_cons, List.not_mem_nil, or_false] at hi
  obtain ⟨n, -, h | h | h | h | h⟩ := hi <;> exact ⟨_, .inl h⟩

/-- A memory that is ready at every other edge. -/
def schedule (n : Nat) : Pins := if n % 2 = 0 then waitPins else quietPins

theorem schedule_grants (s : State) : MemoryGrants s schedule := by
  intro n _
  refine ⟨2 * n + 1, by omega, ?_⟩
  simp [schedule, quietPins]

theorem schedule_rst (n : Nat) : (schedule n).rst = false := by
  unfold schedule; split <;> rfl

theorem witness_FsmRefinesTheOperationLevel : (warm extended).fsm = .sIdle ∧
    (requestPins 1 69 0).rst = false ∧ (requestPins 1 69 0).reqValid = true ∧
    (requestPins 1 69 0).reqOp = reqOp (encode (.rd 69)) ∧ (requestPins 1 69 0).reqAddr = reqAddr (encode (.rd 69)) ∧
    (requestPins 1 69 0).reqWdata = reqWdata (encode (.rd 69)) ∧
    (∀ n : Nat, (schedule n).rst = false) ∧ MemoryGrants (clockEdge (requestPins 1 69 0) (warm extended)) schedule :=
  ⟨rfl, rfl, rfl, rfl, rfl, rfl, schedule_rst, schedule_grants _⟩
theorem witness_RstAtAnyEdgeResets : resetPins.rst = true := rfl
theorem witness_ChangesHappenAtTheCommitEdge : quietPins.rst = false ∧ (clockEdge quietPins refilling).fsm ≠ .sResp := by decide
theorem witness_ResetLeavesNothingHalfDone :
    (∀ q ∈ [requestPins 2 5 42, quietPins], q.rst = false) ∧ resetPins.rst = true ∧
    (∀ k : Nat, k ≤ [requestPins 2 5 42, quietPins].length →
      (runEdges ([requestPins 2 5 42, quietPins].take k) (warm extended)).fsm ≠ .sResp) ∧
    (clockEdge quietPins writing).fsm = .sResp := by
  refine ⟨by decide, rfl, fun k hk => ?_, rfl⟩
  have : k = 0 ∨ k = 1 ∨ k = 2 := by simp at hk; omega
  rcases this with h | h | h <;> subst h <;> decide
theorem witness_TransfersHappenAsAsked : (outputs false writing).memValid = true ∧ (outputs false writing).memWe = true ∧
    (outputs false refilling).memValid = true ∧ (outputs false refilling).memWe = false ∧
    (outputs true writing).memValid = false ∧ quietPins.memReady = true ∧ waitPins.memReady = false := by decide
theorem witness_AWaitingBlockChangesNothing : asksTransfer writing.fsm = true ∧
    (∀ p ∈ [waitPins, waitPins], p.rst = false ∧ p.memReady = false) := by decide
theorem witness_OperandsMatterAtAcceptanceOnly :
    (requestPins 1 69 0).rst = quietPins.rst ∧ (requestPins 1 69 0).memReady = quietPins.memReady ∧
    ¬ ((requestPins 1 69 0).reqValid = true ∧ (outputs false writing).reqReady = true) ∧
    ¬ (quietPins.reqValid = true ∧ (outputs false writing).reqReady = true) := by decide
theorem witness_OneResponsePerRequest : (warm extended).fsm = .sIdle ∧ (requestPins 1 69 0).rst = false ∧
    (requestPins 1 69 0).reqValid = true ∧
    (requestPins 1 69 0).reqOp = reqOp (encode (.rd 69)) ∧ (requestPins 1 69 0).reqAddr = reqAddr (encode (.rd 69)) ∧
    (requestPins 1 69 0).reqWdata = reqWdata (encode (.rd 69)) ∧ (∀ n : Nat, (schedule n).rst = false) ∧
    MemoryGrants (clockEdge (requestPins 1 69 0) (warm extended)) schedule :=
  ⟨rfl, rfl, rfl, rfl, rfl, rfl, schedule_rst, schedule_grants _⟩
/-- A cycle in which the last clause of the statement speaks: `WR 5, 42` answers at edge 2. -/
theorem witness_OneResponsePerRequest_cycle :
    (outputs false (runEdges [requestPins 2 5 42, quietPins, quietPins] (cold extended))).rspValid = true ∧
    (outputs false (runEdges [requestPins 2 5 42, quietPins, quietPins] (cold extended))).rspOutcome = .miss := by decide

end Sys2Proof.Tests
end

section
/-! PROOFS of the statements of 10_state.md: every step completes, the counters saturate, what a reset leaves. -/

namespace Sys2Proof.Machine

/-! ### No clock edge changes the parameters (entry 3) -/

@[simp] theorem commitStatusRead_params (reg : Word) (s : State) : (commitStatusRead reg s).params = s.params := by
  cases h : statusReg s.params.hasData reg <;> simp [commitStatusRead, h]

@[simp] theorem edgeExec_params (s : State) : (edgeExec s).params = s.params := by
  unfold edgeExec
  split
  case isFalse => simp
  case isTrue =>
    split
    case isFalse => simp
    case isTrue =>
      cases latchedInstr s with
      | rd _ => dsimp only; split_ifs <;> simp
      | wr _ _ | srd _ | reserved0 | reserved5 | reserved6 | reserved7 => simp
      | dec _ => simp [commitDecode]

@[simp] theorem clockEdge_params (p : Pins) (s : State) : (clockEdge p s).params = s.params := by
  unfold clockEdge
  split
  · exact applyRst_params s
  · cases s.fsm with
    | sExec => exact edgeExec_params s
    | sResp => exact goto_params s .sIdle
    | sIdle => dsimp only; split <;> simp
    | sFill0 | sFill1 | sFill2 => dsimp only; split <;> simp [edgeFill]
    | sFill3 => dsimp only; split <;> simp [edgeFillLast]
    | sWmem => dsimp only; split <;> simp [edgeWrite]

@[simp] theorem runEdges_params (ps : List Pins) (s : State) : (runEdges ps s).params = s.params := by
  induction ps generalizing s with
  | nil => rfl
  | cons p ps ih => rw [runEdges, ih, clockEdge_params]

@[simp] theorem completeInFlight_params (s : State) : (completeInFlight s).params = s.params :=
  runEdges_params _ s

/-! ### A step, by what the block finds (entries 7 and 9) -/

/-- Every operation has a next state: both errors are ordinary responses (60_exceptions.md R173, R175). -/
theorem exec_next (i : Instr) (s : State) : ∃ t, exec i s = .next t := by
  obtain ⟨_, _, e, _⟩ | ⟨_, _, _, _, e⟩ | ⟨_, _, _, _, _, e⟩ | ⟨_, _, _, _, _, e⟩ | ⟨_, _, _, _, _, e⟩ := exec_cases s i <;>
    exact ⟨_, e⟩

theorem step_busy {s : State} (h : s.fsm ≠ .sIdle) : step s = .next (completeInFlight s) := if_neg h

theorem step_idle_nil {s : State} (h : s.fsm = .sIdle) (hs : s.stimuli = []) : step s = .next s := by
  simp [step, h, hs]

theorem step_idle_request {s : State} {w : RequestWord} {rest : List Stimulus} (h : s.fsm = .sIdle)
    (hs : s.stimuli = .request w :: rest) : step s = exec (decode w) (acceptWord w { s with stimuli := rest }) := by
  simp [step, h, hs]

theorem step_idle_rst {s : State} {rest : List Stimulus} (h : s.fsm = .sIdle) (hs : s.stimuli = .rst :: rest) :
    step s = .next (applyRst { s with stimuli := rest }) := by
  simp [step, h, hs]

/-! ### What a reset leaves (10_state.md R40) -/

theorem resetValues_powerUp (p : Params) : ResetValues (State.powerUp p) where
  linesInvalid := resetLines_invalid
  hits := rfl
  misses := rfl
  evictions := rfl
  fsm := rfl

theorem resetValues_applyRst (s : State) : ResetValues (applyRst s) where
  linesInvalid := line_applyRst_valid s
  hits := applyRst_hits s
  misses := applyRst_misses s
  evictions := applyRst_evictions s
  fsm := applyRst_fsm s

theorem powerUp_mem_read (p : Params) (a : Addr) : (State.powerUp p).mem.read a = Config.memInit a :=
  Memory.read_nil a

/-! ### The statements -/

/-- Settles O38, by what the block finds: an operation in flight, nothing to do, a request, or a reset. -/
theorem everyStepCompletes : Obligations.EveryStepCompletes := by
  intro s
  by_cases idle : s.fsm = .sIdle
  case neg => exact ⟨_, step_busy idle, completeInFlight_fsm s, completeInFlight_params s⟩
  case pos =>
    cases hs : s.stimuli with
    | nil => exact ⟨s, step_idle_nil idle hs, idle, rfl⟩
    | cons x rest =>
      cases x with
      | rst => exact ⟨_, step_idle_rst idle hs, applyRst_fsm _, applyRst_params _⟩
      | request w =>
        obtain ⟨t, ht⟩ := exec_next (decode w) (acceptWord w { s with stimuli := rest })
        obtain ⟨-, hfsm, hparams⟩ := exec_keeps ht
        exact ⟨t, (step_idle_request idle hs).trans ht, hfsm, hparams⟩

/-- Settles O30: the increment is the spec's, and read through `min` it is the increment of the unbounded count. -/
theorem countersSaturate : Obligations.CountersSaturate := by
  refine ⟨fun _ => rfl, fun n => ?_⟩
  have count_toNat : (BitVec.ofNat 32 (min n (2 ^ 32 - 1))).toNat = min n (2 ^ 32 - 1) := by
    rw [BitVec.toNat_ofNat]; omega
  rw [satinc_toNat, count_toNat]; omega

/-- Settles O39: the power-up reset of any parameters, of which `State.reset` is one, and a later reset. -/
theorem resetLeavesAnEmptyCache : Obligations.ResetLeavesAnEmptyCache :=
  ⟨⟨resetValues_powerUp _, powerUp_mem_read _⟩,
    fun p => ⟨resetValues_powerUp p, fun _ => powerUp_mem_read p⟩,
    fun s => ⟨resetValues_applyRst s, fun _ => rfl⟩⟩

end Sys2Proof.Machine
end

section
/-! PROOFS of the statements of 20_memory.md: the transfers each operation makes. -/

namespace Sys2Proof.Machine

/-! ### The rows of the table of transfers (20_memory.md R65) -/

/-- The row of a read miss of the extended variant is the refill's four reads. -/
theorem fetchBlock_transfers_of_rd_miss {s : State} {addr : Word} (inRange : inMemory addr = true)
    (ext : s.params.hasData = true)
    (miss : isHit (s.line (decodeAddress (lowAddr addr)).line) (decodeAddress (lowAddr addr)) = false) :
    (s.fetchBlock (decodeAddress (lowAddr addr)).blockIndex).transfers = s.transfers ++ transfersOf (.rd addr) s := by
  have notHit := mt (isHit_iff _ _).2 (Bool.eq_false_iff.1 miss)
  rw [fetchBlock_transfers, transfersOf, if_pos ⟨ext, (inMemory_iff addr).1 inRange, notHit⟩]

theorem transfersOf_rd_outOfRange {s : State} {addr : Word} (outOfRange : inMemory addr = false) :
    transfersOf (.rd addr) s = [] :=
  if_neg fun taken => absurd ((inMemory_false_iff addr).1 outOfRange) (Nat.not_lt.2 taken.2.1)

theorem transfersOf_rd_hit {s : State} {addr : Word}
    (hit : isHit (s.line (decodeAddress (lowAddr addr)).line) (decodeAddress (lowAddr addr)) = true) :
    transfersOf (.rd addr) s = [] :=
  if_neg fun taken => taken.2.2 ((isHit_iff _ _).1 hit)

theorem transfersOf_rd_basic {s : State} (addr : Word) (basic : s.params.hasData = false) :
    transfersOf (.rd addr) s = [] :=
  if_neg fun taken => Bool.eq_false_iff.1 basic taken.1

theorem transfersOf_wr_inRange {s : State} {addr : Word} (v : Word) (ext : s.params.hasData = true)
    (inRange : inMemory addr = true) : transfersOf (.wr addr v) s = [.write (lowAddr addr) v] :=
  if_pos ⟨ext, (inMemory_iff addr).1 inRange⟩

theorem transfersOf_wr_basic {s : State} (addr v : Word) (basic : s.params.hasData = false) :
    transfersOf (.wr addr v) s = [] :=
  if_neg fun taken => Bool.eq_false_iff.1 basic taken.1

theorem transfersOf_wr_outOfRange {s : State} {addr : Word} (v : Word) (outOfRange : inMemory addr = false) :
    transfersOf (.wr addr v) s = [] :=
  if_neg fun taken => absurd ((inMemory_false_iff addr).1 outOfRange) (Nat.not_lt.2 taken.2)

/-! ### Each operation makes the transfers of its row -/

/-- An operation that ends with the history it began with, and whose row of the table is empty, makes the transfers of its
row. -/
theorem exec_transfers_of_none {i : Instr} {s t : State} (e : exec i s = .next t) (same : t.transfers = s.transfers)
    (row : transfersOf i s = []) : ∃ t, exec i s = .next t ∧ t.transfers = s.transfers ++ transfersOf i s :=
  ⟨t, e, by rw [same, row, List.append_nil]⟩

theorem exec_rd_transfers (addr : Word) (s : State) :
    ∃ t, exec (.rd addr) s = .next t ∧ t.transfers = s.transfers ++ transfersOf (.rd addr) s := by
  cases inRange : inMemory addr with
  | false => exact exec_transfers_of_none (execRd_outOfRange s inRange) rfl (transfersOf_rd_outOfRange inRange)
  | true =>
    cases hit : isHit (s.line (decodeAddress (lowAddr addr)).line) (decodeAddress (lowAddr addr)) with
    | true => exact exec_transfers_of_none (execRd_hit s inRange hit) (by simp) (transfersOf_rd_hit hit)
    | false =>
      cases variant : s.params.hasData with
      | false =>
        exact exec_transfers_of_none (execRd_basicMiss s inRange variant hit) (by simp) (transfersOf_rd_basic addr variant)
      | true =>
        refine ⟨_, execRd_fill s inRange variant hit, ?_⟩
        rw [goto_transfers, commitFill_transfers, fetchBlock_transfers_of_rd_miss inRange variant hit]

theorem exec_wr_transfers (addr v : Word) (s : State) :
    ∃ t, exec (.wr addr v) s = .next t ∧ t.transfers = s.transfers ++ transfersOf (.wr addr v) s := by
  cases variant : s.params.hasData with
  | false => exact exec_transfers_of_none (execWr_basic s addr v variant) rfl (transfersOf_wr_basic addr v variant)
  | true =>
    cases inRange : inMemory addr with
    | false =>
      exact exec_transfers_of_none (execWr_outOfRange s v variant inRange) rfl (transfersOf_wr_outOfRange v inRange)
    | true =>
      refine ⟨_, execWr_inRange s v variant inRange, ?_⟩
      rw [goto_transfers, commitWrite_transfers, writeTransfer_transfers, transfersOf_wr_inRange v variant inRange]

/-! ### The statement -/

/-- Settles O31, operation by operation: the references by their cases, every other operation as a response and nothing
else. -/
theorem transfersOfEveryOperation : Obligations.TransfersOfEveryOperation := by
  intro i s
  cases i with
  | rd addr => exact exec_rd_transfers addr s
  | wr addr v => exact exec_wr_transfers addr v s
  | dec addr =>
    cases inRange : inMemory addr with
    | false => exact exec_transfers_of_none (execDec_outOfRange s inRange) rfl rfl
    | true => exact exec_transfers_of_none (execDec_inRange s inRange) rfl rfl
  | srd reg =>
    cases mapped : statusReg s.params.hasData reg with
    | none => exact exec_transfers_of_none (execSrd_unmapped s mapped) rfl rfl
    | some r => exact exec_transfers_of_none (execSrd_mapped s mapped) rfl rfl
  | reserved0 | reserved5 | reserved6 | reserved7 =>
    exact exec_transfers_of_none (complete_raiseError s .illegal) rfl rfl

end Sys2Proof.Machine
end

section
/-! PROOFS of the statements of 30_encoding.md: the layout of the response word and its codes. -/

namespace Sys2Proof.Machine

/-! ### The fields of a response word (30_encoding.md R96) -/

@[simp] theorem packResponse_rdata (st : Status) (o : RefOutcome) (rdata : Word) :
    (packResponse st o rdata).extractLsb' 0 32 = rdata :=
  BitVec.extractLsb'_append_eq_right

@[simp] theorem packResponse_outcome (st : Status) (o : RefOutcome) (rdata : Word) :
    (packResponse st o rdata).extractLsb' 32 2 = outcomeCode o :=
  calc (packResponse st o rdata).extractLsb' 32 2
    _ = (statusCode st ++ outcomeCode o).extractLsb' 0 2 := BitVec.extractLsb'_append_eq_of_le le_rfl
    _ = outcomeCode o := BitVec.extractLsb'_append_eq_right

@[simp] theorem packResponse_status (st : Status) (o : RefOutcome) (rdata : Word) :
    (packResponse st o rdata).extractLsb' 34 2 = statusCode st :=
  calc (packResponse st o rdata).extractLsb' 34 2
    _ = (statusCode st ++ outcomeCode o).extractLsb' 2 2 := BitVec.extractLsb'_append_eq_of_le (by decide)
    _ = statusCode st := BitVec.extractLsb'_append_eq_left

/-! ### The codes (R87) -/

/-- The code `0b11` stands for no status. -/
theorem statusCode_ne_three (st : Status) : statusCode st ≠ 0b11 := by
  cases st <;> decide

/-! ### The statement -/

/-- Settles O6, field by field: each field of the packed word is its part, and no status has the code `0b11`. -/
theorem responseWordLayout : Obligations.ResponseWordLayout := by
  intro s
  have status_field : (responseWord s).extractLsb' 34 2 = statusCode s.rspStatusQ := packResponse_status _ _ _
  refine ⟨packResponse_rdata _ _ _, (packResponse_outcome _ _ _).trans ?_, status_field.trans ?_, ?_⟩
  · cases s.rspOutcomeQ <;> rfl
  · cases s.rspStatusQ <;> rfl
  · exact status_field ▸ statusCode_ne_three s.rspStatusQ

end Sys2Proof.Machine
end

section
/-! PROOFS of the statements of 40_address_decode.md: the decoder in the source's formulas, and the address put together
again from its fields. -/

namespace Sys2Proof.Machine

/-! ### The block index and the two fields it is made of (40_address_decode.md R102) -/

theorem decode_line_eq (a : Addr) : (decodeAddress a).line = (decodeAddress a).blockIndex.extractLsb' 0 4 := by
  rw [decode_blockIndex]
  exact BitVec.extractLsb'_append_eq_right.symm

theorem decode_tag_eq (a : Addr) : (decodeAddress a).tag = (decodeAddress a).blockIndex.extractLsb' 4 4 := by
  rw [decode_blockIndex]
  exact BitVec.extractLsb'_append_eq_left.symm

/-- The bits above the offset are the whole of the block index. -/
theorem decode_blockIndex_congr {a b : Addr} (h : a >>> 2 = b >>> 2) :
    (decodeAddress a).blockIndex = (decodeAddress b).blockIndex := by
  have quotients : a.toNat / 4 = b.toNat / 4 := by
    simpa [Nat.shiftRight_eq_div_pow] using congrArg BitVec.toNat h
  obtain ⟨-, ha, -⟩ := decodeAddress_toNat a
  obtain ⟨-, hb, -⟩ := decodeAddress_toNat b
  exact BitVec.eq_of_toNat_eq (by rw [ha, hb, quotients])

/-! ### An address put together from its fields (R101, R108) -/

@[simp] theorem decode_wordAddress_blockIndex (b : BitVec 8) (w : Offset) :
    (decodeAddress (wordAddress b w)).blockIndex = b :=
  (wordAddress_inj (wordAddress_decode _)).1

@[simp] theorem decode_wordAddress_offset (b : BitVec 8) (w : Offset) : (decodeAddress (wordAddress b w)).offset = w :=
  (wordAddress_inj (wordAddress_decode _)).2

theorem decode_wordAddress_append_line (t : BitVec 4) (l : LineIndex) (w : Offset) :
    (decodeAddress (wordAddress (t ++ l) w)).line = l := by
  rw [decode_line_eq, decode_wordAddress_blockIndex]
  exact BitVec.extractLsb'_append_eq_right

theorem decode_wordAddress_append_tag (t : BitVec 4) (l : LineIndex) (w : Offset) :
    (decodeAddress (wordAddress (t ++ l) w)).tag = t := by
  rw [decode_tag_eq, decode_wordAddress_blockIndex]
  exact BitVec.extractLsb'_append_eq_left

theorem wordAddress_append_decode (a : Addr) :
    wordAddress ((decodeAddress a).tag ++ (decodeAddress a).line) (decodeAddress a).offset = a := by
  rw [← decode_blockIndex, wordAddress_decode]

/-- The three fields stand in disjoint bits, so the source's `|` puts them together (R101). -/
theorem wordAddress_append_toNat (t : BitVec 4) (l : LineIndex) (w : Offset) :
    (wordAddress (t ++ l) w).toNat = (t.toNat <<< 6) ||| (l.toNat <<< 2) ||| w.toNat :=
  calc (wordAddress (t ++ l) w).toNat
    _ = (t.toNat <<< 4 ||| l.toNat) <<< 2 ||| w.toNat := by
      rw [← BitVec.toNat_append, ← BitVec.toNat_append]; rfl
    _ = (t.toNat <<< 6) ||| (l.toNat <<< 2) ||| w.toNat := by
      rw [Nat.shiftLeft_or_distrib, ← Nat.shiftLeft_add]

/-! ### The statements -/

/-- Settles O9: an address is its three fields put together, and putting three fields together gives an address that
decodes to them, so it is the only one. -/
theorem decompositionRoundTrip : Obligations.DecompositionRoundTrip := by
  refine ⟨fun a => ⟨?_, ?_⟩, fun t l o => ⟨wordAddress (t ++ l) o, ⟨?_, ?_, ?_⟩, ?_⟩⟩
  · obtain ⟨hoffset, -, hline, htag⟩ := decodeAddress_toNat a
    omega
  · rw [← wordAddress_append_toNat, wordAddress_append_decode]
  · exact decode_wordAddress_append_tag t l o
  · exact decode_wordAddress_append_line t l o
  · exact decode_wordAddress_offset _ o
  · rintro a ⟨rfl, rfl, rfl⟩
    exact (wordAddress_append_decode a).symm

/-- Settles O11: line and tag are slices of the block index, and a block on line `l` is its own tag beside `l`. -/
theorem lineSelectionDependsOnTheBlock : Obligations.LineSelectionDependsOnTheBlock := by
  refine ⟨fun a b sameBlock => ?_, fun b w l => ⟨?_, ?_⟩⟩
  · have h := decode_blockIndex_congr sameBlock
    refine ⟨?_, ?_, h⟩
    · rw [decode_line_eq, decode_line_eq, h]
    · rw [decode_tag_eq, decode_tag_eq, h]
  · rintro rfl
    have h := congrArg BitVec.toNat (decode_blockIndex (wordAddress b w))
    rw [decode_wordAddress_blockIndex, append_line_toNat] at h
    exact ⟨(decodeAddress (wordAddress b w)).tag, by omega⟩
  · rintro ⟨t, ht⟩
    have tag_beside_line : b = t ++ l := BitVec.eq_of_toNat_eq (by rw [append_line_toNat]; omega)
    rw [tag_beside_line, decode_wordAddress_append_line]

/-- Settles O8: the masks and the shifts are the remainders and quotients of `decodeAddress_toNat`. -/
theorem decoderIsTheSourceFormulas : Obligations.DecoderIsTheSourceFormulas := by
  intro a
  obtain ⟨hoffset, hblock, hline, htag⟩ := decodeAddress_toNat a
  refine ⟨?_, ?_, ?_, ?_⟩
  · rw [hoffset]; exact (Nat.and_two_pow_sub_one_eq_mod _ 2).symm
  · rw [hblock]; exact (Nat.shiftRight_eq_div_pow _ 2).symm
  · rw [hline, hblock]; exact (Nat.and_two_pow_sub_one_eq_mod _ 4).symm
  · rw [htag]; exact (Nat.shiftRight_eq_div_pow _ 6).symm

/-- Settles O10: the concatenation, read as a number and cut apart again, and the block's first word plus the offset. -/
theorem blockIndexIsTagBesideLine : Obligations.BlockIndexIsTagBesideLine := by
  intro a
  refine ⟨decode_blockIndex a, ?_, decode_line_eq a, decode_tag_eq a, ?_⟩
  · rw [decode_blockIndex, append_line_toNat]
  · rw [← wordAddress_toNat, wordAddress_decode]

end Sys2Proof.Machine
end

section
/-! PROOFS of the statements of 42_read.md: what a read returns in the extended variant, and the addresses above 1023. -/

namespace Sys2Proof.Machine

/-! ### The word a read of the extended variant returns (42_read.md R122) -/

/-- On a hit the cached word is the memory's, since a valid line is a copy of its block (10_state.md R37). -/
theorem Inv.cachedWord_of_isHit {s : State} (inv : Inv s) (ext : s.params.hasData = true) {a : Addr}
    (hit : isHit (s.line (decodeAddress a).line) (decodeAddress a) = true) :
    (s.line (decodeAddress a).line).data[(decodeAddress a).offset.toNat]'(decodeAddress a).offset.isLt =
      s.mem.read a := by
  obtain ⟨valid, -⟩ := (isHit_iff _ _).1 hit
  have holds_block := blockIndex_of_isHit a _ hit (inv.blockIndexAgrees _ valid)
  rw [inv.copies ext _ valid, holds_block, wordAddress_decode]

/-- On a miss the word taken from the fetched block is the memory's (41_lookup_fill.md R114). -/
theorem block_get_decode (m : Memory) (a : Addr) :
    (m.block (decodeAddress a).blockIndex)[(decodeAddress a).offset.toNat]'(decodeAddress a).offset.isLt = m.read a := by
  rw [block_get, wordAddress_decode]

/-! ### The statements -/

/-- Settles O43, by hit or miss: the hit returns the line's copy of the word, the miss the word of the fetched block. -/
theorem rdReturnsTheMemoryWord : Obligations.RdReturnsTheMemoryWord := by
  intro s addr inv ext bound
  have inRange := (inMemory_iff addr).2 bound
  cases hit : isHit (s.line (decodeAddress (lowAddr addr)).line) (decodeAddress (lowAddr addr)) with
  | true =>
    refine ⟨_, execRd_hit s inRange hit, ?_, ?_⟩
    · rw [goto_rspStatusQ, commitReadHit_rspStatusQ]
    · rw [goto_rspRdataQ, commitReadHit_rspRdataQ, if_pos ext, inv.cachedWord_of_isHit ext hit]
  | false =>
    refine ⟨_, execRd_fill s inRange ext hit, ?_, ?_⟩
    · rw [goto_rspStatusQ, commitFill_rspStatusQ]
    · rw [goto_rspRdataQ, commitFill_rspRdataQ, block_get_decode]

/-- Settles O18: above 1023 each of the three operations fails its range check. -/
theorem addressesAbove1023AreOutOfBounds : Obligations.AddressesAbove1023AreOutOfBounds := by
  intro s addr v above
  have outOfRange := (inMemory_false_iff addr).2 above
  exact ⟨execRd_outOfRange s outOfRange, execDec_outOfRange s outOfRange,
    fun ext => execWr_outOfRange s v ext outOfRange⟩

end Sys2Proof.Machine
end

section
/-! PROOFS of the statements of 43_write.md: a write hit is write-through, a write miss is write-around. -/

namespace Sys2Proof.Machine

/-! ### What a write in range does to each part of the state (43_write.md R130)

The state is the one `exec` ends in, the block idle again; `hit` is what the comparator says of the line before. -/

section Write

variable {s : State} {a : Addr} (v : Word) {hit : Bool}

theorem exec_wr_writeReference {addr : Word} (ext : s.params.hasData = true) (inRange : inMemory addr = true) :
    exec (.wr addr v) s = .next ((writeReference (lowAddr addr) v s).goto .sIdle) :=
  execWr_inRange s v ext inRange

theorem writeReference_responds (look : isHit (s.line (decodeAddress a).line) (decodeAddress a) = hit) :
    Responds ((writeReference a v s).goto .sIdle) .ok (if hit then .hit else .miss) 0 where
  status := by rw [goto_rspStatusQ, writeReference, commitWrite_rspStatusQ]
  outcome := by rw [goto_rspOutcomeQ, writeReference, writeReference_rspOutcomeQ, look]
  rdata := by rw [goto_rspRdataQ, writeReference, commitWrite_rspRdataQ]

/-- A write counts a hit or a miss, and never an eviction (R134). -/
theorem writeReference_counted (look : isHit (s.line (decodeAddress a).line) (decodeAddress a) = hit) :
    Counted s ((writeReference a v s).goto .sIdle) hit (!hit) false where
  hits := by
    rw [goto_hits, writeReference, writeReference_hits, look]
    cases hit <;> simp [satinc_eq_counted]
  misses := by
    rw [goto_misses, writeReference, writeReference_misses, look]
    cases hit <;> simp [satinc_eq_counted]
  evictions := by
    rw [goto_evictions, writeReference, commitWrite_evictions, writeTransfer_evictions, counted_false]

/-- The memory word is written whether the line hits or misses (R131, R132). -/
theorem writeReference_mem_read (c : Addr) :
    ((writeReference a v s).goto .sIdle).mem.read c = if c = a then v else s.mem.read c := by
  rw [goto_mem, writeReference, commitWrite_mem, writeTransfer_mem, Memory.read_write]

/-- One write transfer, hit or miss (20_memory.md R65). -/
theorem writeReference_transfers :
    ((writeReference a v s).goto .sIdle).transfers = s.transfers ++ [.write a v] := by
  rw [goto_transfers, writeReference, commitWrite_transfers, writeTransfer_transfers]

theorem writeReference_sameRequestSide : SameRequestSide s ((writeReference a v s).goto .sIdle) := by
  constructor <;> simp [writeReference]

theorem writeReference_fb : ((writeReference a v s).goto .sIdle).fb = s.fb := by
  rw [goto_fb, writeReference, commitWrite_fb, writeTransfer_fb]

theorem writeReference_drawn : ((writeReference a v s).goto .sIdle).drawn = s.drawn := by
  rw [goto_drawn, writeReference, commitWrite_drawn, writeTransfer_drawn]

/-- The line a write hit selects (R131). -/
theorem writeReference_line_of_hit (look : isHit (s.line (decodeAddress a).line) (decodeAddress a) = true) :
    ((writeReference a v s).goto .sIdle).line (decodeAddress a).line =
      writeHitLine s.params.wrHitUpdatesLastOffset (decodeAddress a) v (s.line (decodeAddress a).line) := by
  rw [line_goto, writeReference, line_writeReference, if_pos ⟨rfl, look⟩]

/-- A write leaves every line but the one its address selects. -/
theorem writeReference_line_of_ne {j : LineIndex} (other : j ≠ (decodeAddress a).line) :
    ((writeReference a v s).goto .sIdle).line j = s.line j := by
  rw [line_goto, writeReference, line_writeReference, if_neg fun selected => other selected.1]

/-- A write miss leaves every line (R132). -/
theorem writeReference_line_of_miss (look : isHit (s.line (decodeAddress a).line) (decodeAddress a) = false)
    (j : LineIndex) : ((writeReference a v s).goto .sIdle).line j = s.line j := by
  rw [line_goto, writeReference, line_writeReference, if_neg fun selected => Bool.eq_false_iff.1 look selected.2]

end Write

/-! ### The statements -/

/-- Settles O24: the selected line becomes `writeHitLine` of itself, whose fields are read off one by one; the memory word
and the rest are those of any write in range. -/
theorem wrHitIsWriteThrough : Obligations.WrHitIsWriteThrough := by
  intro s addr v ext bound valid tag
  have look := (isHit_iff _ _).2 ⟨valid, tag⟩
  have written := writeReference_line_of_hit v look
  refine ⟨_, exec_wr_writeReference v ext ((inMemory_iff addr).2 bound), writeReference_responds v look,
    fun w => ?data, ?valid, ?tag, ?blockIndex, ?lastOffset, fun j => writeReference_line_of_ne v,
    writeReference_mem_read v, writeReference_transfers v, writeReference_counted v look,
    writeReference_sameRequestSide v, writeReference_fb v, writeReference_drawn v, goto_fsm _ _⟩
  case data => simp only [written, writeHitLine_get]
  case valid => rw [written, writeHitLine_valid, valid]
  case tag => rw [written, writeHitLine_tag]
  case blockIndex => rw [written, writeHitLine_blockIndex]
  case lastOffset => rw [written, writeHitLine_lastOffset]

/-- Settles O25: the comparator says no, for a cold and for a conflicting line alike, so no line is written; the memory word
and the rest are those of any write in range. -/
theorem wrMissIsWriteAround : Obligations.WrMissIsWriteAround := by
  intro s addr v ext bound notHeld
  have look := Bool.eq_false_iff.2 (mt (isHit_iff _ _).1 notHeld)
  exact ⟨_, exec_wr_writeReference v ext ((inMemory_iff addr).2 bound), writeReference_responds v look,
    writeReference_line_of_miss v look, writeReference_mem_read v, writeReference_transfers v,
    writeReference_counted v look, writeReference_sameRequestSide v, writeReference_fb v, writeReference_drawn v,
    goto_fsm _ _⟩

end Sys2Proof.Machine
end

section
/-! PROOFS of the statements of 44_status.md on the line registers: `LINE_META` and `LINE_DATA`. -/

namespace Sys2Proof.Machine

/-! ### The word of `LINE_META` (44_status.md R143) -/

theorem packLineMeta_of_invalid {l : CacheLine} (invalid : l.valid = false) : packLineMeta l = 0 := by
  rw [packLineMeta, invalid]; rfl

section Fields

variable (l : CacheLine)

/-- A slice of the word is `x`, masked for an invalid line, when the number of a valid line has `x` in that place. -/
theorem packLineMeta_extract {start len : Nat} {x : BitVec len}
    (slice : (l.lastOffset.toNat * 8192 + l.blockIndex.toNat * 32 + l.tag.toNat * 2 + 1) / 2 ^ start % 2 ^ len = x.toNat) :
    (packLineMeta l).extractLsb' start len = if l.valid then x else 0 := by
  cases valid : l.valid with
  | false =>
    rw [packLineMeta_of_invalid valid]
    exact BitVec.extractLsb'_zero
  | true =>
    apply BitVec.eq_of_toNat_eq
    rw [BitVec.extractLsb'_toNat, Nat.shiftRight_eq_div_pow, packLineMeta_toNat l valid, slice]
    rfl

theorem packLineMeta_valid : (packLineMeta l).extractLsb' 0 1 = if l.valid then 1 else 0 :=
  packLineMeta_extract l (by rw [show (1 : BitVec 1).toNat = 1 from rfl]; omega)

theorem packLineMeta_tag : (packLineMeta l).extractLsb' 1 4 = if l.valid then l.tag else 0 :=
  packLineMeta_extract l (by have := l.tag.isLt; omega)

theorem packLineMeta_blockIndex : (packLineMeta l).extractLsb' 5 8 = if l.valid then l.blockIndex else 0 :=
  packLineMeta_extract l (by have := l.tag.isLt; have := l.blockIndex.isLt; omega)

theorem packLineMeta_lastOffset : (packLineMeta l).extractLsb' 13 2 = if l.valid then l.lastOffset else 0 :=
  packLineMeta_extract l (by have := l.tag.isLt; have := l.blockIndex.isLt; have := l.lastOffset.isLt; omega)

theorem packLineMeta_unused : (packLineMeta l).extractLsb' 15 17 = 0 :=
  (packLineMeta_extract l (x := 0) (by
    have := l.tag.isLt; have := l.blockIndex.isLt; have := l.lastOffset.isLt
    rw [show (0 : BitVec 17).toNat = 0 from rfl]; omega)).trans (ite_self 0)

/-- The valid bit is in the word, so only an invalid line reads as zero. -/
theorem packLineMeta_eq_zero_iff : packLineMeta l = 0 ↔ l.valid = false := by
  refine ⟨fun zero => Bool.eq_false_iff.2 fun valid => ?_, packLineMeta_of_invalid⟩
  have number := packLineMeta_toNat l valid
  rw [zero, show (0 : Word).toNat = 0 from rfl] at number
  omega

end Fields

/-! ### The word of `LINE_DATA` (R144) -/

theorem maskedWord_of_valid {l : CacheLine} (w : Offset) (valid : l.valid = true) :
    maskedWord l w = l.data[w.toNat]'w.isLt :=
  if_pos valid

theorem maskedWord_of_invalid {l : CacheLine} (w : Offset) (invalid : l.valid = false) : maskedWord l w = 0 :=
  if_neg (Bool.eq_false_iff.1 invalid)

/-! ### The two registers read by their numbers (R140, R141) -/

theorem execSrd_lineMeta (s : State) (i : LineIndex) :
    exec (.srd (BitVec.ofNat 32 (0x010 + i.toNat))) s = .next (onlyResponds s .ok .none (packLineMeta (s.line i))) :=
  execSrd_mapped s (statusReg_lineMeta _ i)

theorem execSrd_lineData {s : State} (ext : s.params.hasData = true) (i : LineIndex) (w : Offset) :
    exec (.srd (BitVec.ofNat 32 (0x040 + 4 * i.toNat + w.toNat))) s =
      .next (onlyResponds s .ok .none (maskedWord (s.line i) w)) :=
  execSrd_mapped s (ext ▸ statusReg_lineData i w)

/-! ### The statements -/

/-- Settles O14: the register is the packed word of the line, read field by field; a valid line's block index is its tag
beside its own number (10_state.md R36). -/
theorem srdShowsLineMetadata : Obligations.SrdShowsLineMetadata := by
  intro s i
  refine ⟨packLineMeta (s.line i), execSrd_lineMeta s i, packLineMeta_valid _, packLineMeta_tag _,
    packLineMeta_blockIndex _, packLineMeta_lastOffset _, packLineMeta_unused _, packLineMeta_eq_zero_iff _,
    fun inv valid => ?_⟩
  rw [inv.blockIndexAgrees i valid]
  exact ⟨BitVec.extractLsb'_append_eq_right, BitVec.extractLsb'_append_eq_left⟩

/-- Settles O15: the register is the masked word of the line, and a valid line is a copy of its block (10_state.md R37). -/
theorem srdShowsLineData : Obligations.SrdShowsLineData := by
  intro s i w ext
  exact ⟨maskedWord (s.line i) w, execSrd_lineData ext i w, maskedWord_of_valid w, maskedWord_of_invalid w,
    fun inv valid => (maskedWord_of_valid w valid).trans (inv.copies ext i valid w)⟩

end Sys2Proof.Machine
end

section
/-! PROOFS of the statements of 45_control_fsm.md: the clocked machine refines the operation level. -/

namespace Sys2Proof.Machine

/-! ### The rows out of `S_EXEC`, in the order of the checks (45_control_fsm.md R152, R155) -/

section ExecEdge

variable {s : State}

theorem edgeExec_illegal (illegal : Instr.legal s.params.hasData (latchedInstr s) = false) :
    edgeExec s = (raiseError .illegal s).goto .sResp := by
  rw [edgeExec, if_neg (Bool.eq_false_iff.1 illegal)]

theorem edgeExec_outOfRange (legal : Instr.legal s.params.hasData (latchedInstr s) = true)
    (outOfRange : operandInRange s.params.hasData (latchedInstr s) = false) :
    edgeExec s = (raiseError .oob s).goto .sResp := by
  rw [edgeExec, if_pos legal, if_neg (Bool.eq_false_iff.1 outOfRange)]

variable (legal : Instr.legal s.params.hasData (latchedInstr s) = true)
  (inRange : operandInRange s.params.hasData (latchedInstr s) = true)
include legal inRange

theorem edgeExec_dec {addr : Word} (op : latchedInstr s = .dec addr) :
    edgeExec s = (commitDecode (lowAddr addr) s).goto .sResp := by
  rw [edgeExec, if_pos legal, if_pos inRange, op]

theorem edgeExec_srd {reg : Word} (op : latchedInstr s = .srd reg) :
    edgeExec s = (commitStatusRead reg s).goto .sResp := by
  rw [edgeExec, if_pos legal, if_pos inRange, op]

theorem edgeExec_wr {addr v : Word} (op : latchedInstr s = .wr addr v) : edgeExec s = s.goto .sWmem := by
  rw [edgeExec, if_pos legal, if_pos inRange, op]

theorem edgeExec_rd_hit {addr : Word} (op : latchedInstr s = .rd addr)
    (hit : isHit (s.line (latchedDecoded s).line) (latchedDecoded s) = true) :
    edgeExec s = (commitReadHit (latchedDecoded s) s).goto .sResp := by
  rw [edgeExec, if_pos legal, if_pos inRange, op]
  exact if_pos hit

theorem edgeExec_rd_fill {addr : Word} (op : latchedInstr s = .rd addr) (ext : s.params.hasData = true)
    (miss : isHit (s.line (latchedDecoded s).line) (latchedDecoded s) = false) : edgeExec s = s.goto .sFill0 := by
  rw [edgeExec, if_pos legal, if_pos inRange, op]
  exact (if_neg (Bool.eq_false_iff.1 miss)).trans (if_pos ext)

theorem edgeExec_rd_basicMiss {addr : Word} (op : latchedInstr s = .rd addr) (basic : s.params.hasData = false)
    (miss : isHit (s.line (latchedDecoded s).line) (latchedDecoded s) = false) :
    edgeExec s = (commitBasicMiss (latchedDecoded s) s).goto .sResp := by
  rw [edgeExec, if_pos legal, if_pos inRange, op]
  exact (if_neg (Bool.eq_false_iff.1 miss)).trans (if_neg (Bool.eq_false_iff.1 basic))

end ExecEdge

/-! ### The refill (R152, R157) -/

/-- The block after the first three read transfers of a refill. -/
def threeFills (s : State) : State := edgeFill 2 .sFill3 (edgeFill 1 .sFill2 (edgeFill 0 .sFill1 s))

theorem threeFills_mem (s : State) : (threeFills s).mem = s.mem := by
  simp only [threeFills, edgeFill, goto_mem, setFb_mem, readTransfer_mem]

theorem threeFills_latchedDecoded (s : State) : latchedDecoded (threeFills s) = latchedDecoded s := by
  simp only [threeFills, edgeFill, goto_latchedDecoded, setFb_latchedDecoded, readTransfer_latchedDecoded]

/-- With the fourth transfer they are the operation level's fetch of the block. -/
theorem threeFills_readTransfer (s : State) :
    (threeFills s).readTransfer (fillAddr (threeFills s) 3) =
      (s.fetchBlock (latchedDecoded s).blockIndex).goto .sFill3 := by
  simp only [threeFills, edgeFill, goto_goto, goto_readTransfer, goto_setFb, fillAddr, goto_latchedDecoded,
    setFb_latchedDecoded, readTransfer_latchedDecoded, goto_mem, setFb_mem, readTransfer_mem, State.fetchBlock]
  congr

theorem filledBlock_threeFills (s : State) :
    filledBlock (threeFills s) = s.mem.block (latchedDecoded s).blockIndex := by
  have buffered := congrArg State.fb (threeFills_readTransfer s)
  rw [readTransfer_fb, goto_fb, fetchBlock_fb] at buffered
  simp only [filledBlock, buffered, fillAddr, threeFills_mem, threeFills_latchedDecoded]
  rfl

theorem edgeFillLast_threeFills (s : State) :
    edgeFillLast (threeFills s) = (commitFill (latchedDecoded s) (s.mem.block (latchedDecoded s).blockIndex)
      (s.fetchBlock (latchedDecoded s).blockIndex)).goto .sResp := by
  rw [edgeFillLast, filledBlock_threeFills, threeFills_readTransfer, threeFills_latchedDecoded, commitFill_goto]

/-! ### An operation in progress runs to the operation level's state (R160) -/

theorem completeInFlight_idle {s : State} (idle : s.fsm = .sIdle) : completeInFlight s = s :=
  runEdges_idle _ s (fun q hq => by rw [List.eq_of_mem_replicate hq]; exact ⟨rfl, rfl⟩) idle

theorem completeInFlight_exec {s : State} (atExec : s.fsm = .sExec) :
    completeInFlight s = completeInFlight (edgeExec s) := by
  rw [← completeInFlight_clockEdge]
  simp [clockEdge, quietPins, atExec]

theorem completeInFlight_goto_resp (s : State) : completeInFlight (s.goto .sResp) = s.goto .sIdle :=
  completeInFlight_resp _ rfl

theorem completeInFlight_goto_wmem (s : State) :
    completeInFlight (s.goto .sWmem) =
      (commitWrite (latchedDecoded s) s.wdataQ (s.writeTransfer (lowAddr s.addrQ) s.wdataQ)).goto .sIdle := by
  rw [completeInFlight_write _ rfl]
  exact commitWrite_goto (s.writeTransfer (lowAddr s.addrQ) s.wdataQ) .sWmem .sIdle s.wdataQ (latchedDecoded s)

/-- From `S_FILL0` an operation makes its four read transfers and its commit. -/
theorem completeInFlight_goto_fill (s : State) :
    completeInFlight (s.goto .sFill0) = (commitFill (latchedDecoded s) (s.mem.block (latchedDecoded s).blockIndex)
      (s.fetchBlock (latchedDecoded s).blockIndex)).goto .sIdle :=
  calc completeInFlight (s.goto .sFill0)
    _ = completeInFlight (edgeFillLast (threeFills (s.goto .sFill0))) := by
      iterate 4 rw [← completeInFlight_clockEdge]
      rfl
    _ = (commitFill (latchedDecoded s) (s.mem.block (latchedDecoded s).blockIndex)
          (s.fetchBlock (latchedDecoded s).blockIndex)).goto .sIdle := by
      rw [edgeFillLast_threeFills, completeInFlight_goto_resp]
      rfl

/-- Illegal operations are rejected before anything else (60_exceptions.md R174). -/
theorem exec_illegal {i : Instr} {s : State} (illegal : Instr.legal s.params.hasData i = false) :
    exec i s = .next (onlyResponds s .illegal .none 0) := by
  cases i with
  | wr addr v => exact execWr_basic s addr v illegal
  | reserved0 | reserved5 | reserved6 | reserved7 => exact complete_raiseError s .illegal
  | rd _ | dec _ | srd _ => cases illegal

/-- A legal operation whose operand lies outside its space answers OutOfBounds (60_exceptions.md R170). -/
theorem exec_outOfRange {i : Instr} {s : State} (legal : Instr.legal s.params.hasData i = true)
    (outOfRange : operandInRange s.params.hasData i = false) :
    exec i s = .next (onlyResponds s .oob .none 0) := by
  cases i with
  | rd _ => exact execRd_outOfRange s outOfRange
  | wr _ v => exact execWr_outOfRange s v legal outOfRange
  | dec _ => exact execDec_outOfRange s outOfRange
  | srd _ => exact execSrd_unmapped s (by simpa [operandInRange] using outOfRange)
  | reserved0 | reserved5 | reserved6 | reserved7 => cases legal

/-- A legal read in range: a hit, and a miss of the basic variant, commit at this edge; a miss of the extended variant goes
through the refill. -/
theorem exec_latched_rd {s : State} {addr : Word} (op : latchedInstr s = .rd addr)
    (legal : Instr.legal s.params.hasData (latchedInstr s) = true)
    (inRange : operandInRange s.params.hasData (latchedInstr s) = true) :
    exec (.rd addr) s = .next (completeInFlight (edgeExec s)) := by
  have inMem : inMemory addr = true := by rwa [op] at inRange
  obtain rfl := latchedInstr_rd op
  cases look : isHit (s.line (latchedDecoded s).line) (latchedDecoded s) with
  | true =>
    rw [edgeExec_rd_hit legal inRange op look, completeInFlight_goto_resp]
    exact execRd_hit s inMem look
  | false =>
    cases variant : s.params.hasData with
    | true =>
      rw [edgeExec_rd_fill legal inRange op variant look, completeInFlight_goto_fill]
      exact execRd_fill s inMem variant look
    | false =>
      rw [edgeExec_rd_basicMiss legal inRange op variant look, completeInFlight_goto_resp]
      exact execRd_basicMiss s inMem variant look

/-- The operation in the latches, run edge by edge from `S_EXEC` with a memory that answers at once, ends in the state of
the operation level. -/
theorem exec_latched (s : State) : exec (latchedInstr s) s = .next (completeInFlight (edgeExec s)) := by
  cases legal : Instr.legal s.params.hasData (latchedInstr s) with
  | false =>
    rw [edgeExec_illegal legal, completeInFlight_goto_resp]
    exact exec_illegal legal
  | true =>
    cases inRange : operandInRange s.params.hasData (latchedInstr s) with
    | false =>
      rw [edgeExec_outOfRange legal inRange, completeInFlight_goto_resp]
      exact exec_outOfRange legal inRange
    | true =>
      cases op : latchedInstr s with
      | rd addr => exact exec_latched_rd op legal inRange
      | wr addr v =>
        rw [edgeExec_wr legal inRange op, completeInFlight_goto_wmem]
        rw [op] at legal inRange
        obtain ⟨rfl, rfl⟩ := latchedInstr_wr op
        exact execWr_inRange s s.wdataQ legal inRange
      | dec addr =>
        rw [edgeExec_dec legal inRange op, completeInFlight_goto_resp]
        rw [op] at inRange
        exact execDec_inRange s inRange
      | srd reg =>
        rw [edgeExec_srd legal inRange op, completeInFlight_goto_resp]
        rfl
      | reserved0 | reserved5 | reserved6 | reserved7 =>
        rw [op] at legal
        cases legal

/-! ### A memory that grants in the end: waits end, and every edge taken is the quiet one (20_memory.md R61) -/

theorem firstEdges_add (later : Nat → Pins) (n m : Nat) :
    firstEdges later (n + m) = firstEdges later n ++ firstEdges (fun k => later (n + k)) m := by
  simp [firstEdges, List.range_add, Function.comp_def]

theorem MemoryGrants.drop {s : State} {later : Nat → Pins} (grants : MemoryGrants s later) (n : Nat) :
    MemoryGrants (runEdges (firstEdges later n) s) (fun k => later (n + k)) := by
  intro k asks
  rw [← runEdges_append, ← firstEdges_add] at asks
  obtain ⟨m, after, ready⟩ := grants (n + k) asks
  exact ⟨m - n, by omega, by dsimp only; rwa [show n + (m - n) = m by omega]⟩

section Waiting

variable {s : State} {later : Nat → Pins} (busy : s.fsm ≠ .sIdle) (noRst : ∀ n, (later n).rst = false)
include busy noRst

/-- While the memory does not answer, the block stays as it is. -/
theorem runEdges_waiting (n : Nat) (waits : ∀ k < n, asksTransfer s.fsm = true ∧ (later k).memReady = false) :
    runEdges (firstEdges later n) s = s := by
  induction n with
  | zero => rfl
  | succ n ih =>
    rw [firstEdges_add, runEdges_append, ih fun k hk => waits k (by omega)]
    exact (clockEdge_busy _ s (noRst n) busy).trans (if_pos (waits n (by omega)))

/-- A memory that grants lets a busy block take its edge in the end. -/
theorem exists_edge_taken (grants : MemoryGrants s later) :
    ∃ n, runEdges (firstEdges later n) s = clockEdge quietPins s := by
  have moves : ∃ n, ¬ (asksTransfer s.fsm = true ∧ (later n).memReady = false) := by
    by_cases asks : asksTransfer s.fsm = true
    case neg => exact ⟨0, fun waits => asks waits.1⟩
    case pos =>
      have asked : (outputs false (runEdges (firstEdges later 0) s)).memValid = true := by
        simp [outputs, firstEdges, runEdges, asks]
      obtain ⟨m, -, ready⟩ := grants 0 asked
      exact ⟨m, fun waits => Bool.eq_false_iff.1 waits.2 ready⟩
  have waited := runEdges_waiting busy noRst (Nat.find moves) fun k hk => not_not.1 (Nat.find_min moves hk)
  refine ⟨Nat.find moves + 1, ?_⟩
  rw [firstEdges_add, runEdges_append, waited]
  exact (clockEdge_busy _ s (noRst _) busy).trans (if_neg (Nat.find_spec moves))

end Waiting

/-- With a memory that grants, an operation in progress comes to the end it would have with a memory that answers at once,
whatever the requester does: each edge taken brings it nearer and does not change that end. -/
theorem runEdges_reaches_completeInFlight (s : State) (later : Nat → Pins) (noRst : ∀ n, (later n).rst = false)
    (grants : MemoryGrants s later) : ∃ n, runEdges (firstEdges later n) s = completeInFlight s := by
  induction left : edgesLeft s.fsm using Nat.strong_induction_on generalizing s later with
  | _ l ih =>
    by_cases idle : s.fsm = .sIdle
    case pos => exact ⟨0, (completeInFlight_idle idle).symm⟩
    case neg =>
      obtain ⟨n, taken⟩ := exists_edge_taken idle noRst grants
      obtain ⟨m, reached⟩ := ih _ (left ▸ edgesLeft_clockEdge s idle) (clockEdge quietPins s) (fun k => later (n + k))
        (fun k => noRst (n + k)) (taken ▸ grants.drop n) rfl
      exact ⟨n + m, by rw [firstEdges_add, runEdges_append, taken, reached, completeInFlight_clockEdge]⟩

/-! ### The statement -/

/-- The edge that accepts a request latches its three fields (30_encoding.md R82). -/
theorem clockEdge_accepts {s : State} {w : RequestWord} {p : Pins} (idle : s.fsm = .sIdle) (noRst : p.rst = false)
    (valid : p.reqValid = true) (op : p.reqOp = reqOp w) (addr : p.reqAddr = reqAddr w) (wdata : p.reqWdata = reqWdata w) :
    clockEdge p s = acceptWord w s := by
  simp [clockEdge, idle, noRst, valid, op, addr, wdata, acceptWord]

/-- Settles O48: after the acceptance the clocked machine reaches the end of the operation in progress, and that end is the
operation level's state. -/
theorem fsmRefinesTheOperationLevel : Obligations.FsmRefinesTheOperationLevel := by
  intro s w p later idle noRst valid op addr wdata laterNoRst grants
  have accepted := clockEdge_accepts idle noRst valid op addr wdata
  obtain ⟨n, reached⟩ := runEdges_reaches_completeInFlight _ later laterNoRst grants
  refine ⟨n, ?_⟩
  rw [runEdges, reached, accepted, completeInFlight_exec (acceptWord_fsm s w)]
  exact exec_latched (acceptWord w s)

end Sys2Proof.Machine
end

section
/-! PROOFS of the statements of 60_exceptions.md: the order of the checks decides the status, and an error changes nothing. -/

namespace Sys2Proof.Machine

/-! ### An operation that passes both checks ends `OK` (60_exceptions.md R174)

What ends in an error is said by `exec_illegal` and `exec_outOfRange`. -/

/-- A read in range ends `OK`, be it a hit, a refill, or a miss of the basic variant. -/
theorem execRd_ok (s : State) {addr : Word} (inRange : inMemory addr = true) :
    ∃ t, exec (.rd addr) s = .next t ∧ t.rspStatusQ = .ok := by
  cases look : isHit (s.line (decodeAddress (lowAddr addr)).line) (decodeAddress (lowAddr addr)) with
  | true => exact ⟨_, execRd_hit s inRange look, by rw [goto_rspStatusQ, commitReadHit_rspStatusQ]⟩
  | false =>
    cases variant : s.params.hasData with
    | true => exact ⟨_, execRd_fill s inRange variant look, by rw [goto_rspStatusQ, commitFill_rspStatusQ]⟩
    | false => exact ⟨_, execRd_basicMiss s inRange variant look, by rw [goto_rspStatusQ, commitBasicMiss_rspStatusQ]⟩

theorem exec_ok {i : Instr} {s : State} (legal : Instr.legal s.params.hasData i = true)
    (inRange : operandInRange s.params.hasData i = true) : ∃ t, exec i s = .next t ∧ t.rspStatusQ = .ok := by
  cases i with
  | rd _ => exact execRd_ok s inRange
  | wr _ v => exact ⟨_, execWr_inRange s v legal inRange, by rw [goto_rspStatusQ, commitWrite_rspStatusQ]⟩
  | dec _ => exact ⟨_, execDec_inRange s inRange, rfl⟩
  | srd _ =>
    obtain ⟨_, mapped⟩ := Option.isSome_iff_exists.1 inRange
    exact ⟨_, execSrd_mapped s mapped, rfl⟩
  | reserved0 | reserved5 | reserved6 | reserved7 => cases legal

/-! ### The statements -/

/-- Settles O19, by the two checks in their order: each that fails, and neither failing, fixes the status. -/
theorem statusFollowsTheOrderOfChecks : Obligations.StatusFollowsTheOrderOfChecks := by
  intro i s
  cases legal : Instr.legal s.params.hasData i with
  | false => exact ⟨_, exec_illegal legal, rfl⟩
  | true =>
    cases inRange : operandInRange s.params.hasData i with
    | false => exact ⟨_, exec_outOfRange legal inRange, rfl⟩
    | true => exact exec_ok legal inRange

/-- Settles O20, by the same two checks: a failed one leaves only its response, and if neither fails the status is `OK`. -/
theorem errorsChangeNothing : Obligations.ErrorsChangeNothing := by
  intro i s t ran notOk
  cases legal : Instr.legal s.params.hasData i with
  | false => cases (exec_illegal legal).symm.trans ran; rfl
  | true =>
    cases inRange : operandInRange s.params.hasData i with
    | false => cases (exec_outOfRange legal inRange).symm.trans ran; rfl
    | true =>
      obtain ⟨_, ends, ok⟩ := exec_ok legal inRange
      cases ends.symm.trans ran
      exact absurd ok notOk

/-- Settles O17: none of these operations is legal, a write because the variant is the basic one. -/
theorem reservedCodesAnswerIllegal : Obligations.ReservedCodesAnswerIllegal := by
  intro s i reservedOrWrite
  refine exec_illegal ?_
  rcases reservedOrWrite with rfl | rfl | rfl | rfl | ⟨basic, _, _, rfl⟩
  case inr.inr.inr.inr => exact basic
  all_goals rfl

end Sys2Proof.Machine
end

section
/-! PROOFS of the statements of 70_reset_and_hazards.md: what a reset leaves of an operation in progress, and the one response
of every accepted request. -/

namespace Sys2Proof.Machine

/-! ### An edge with `rst` at 1 (70_reset_and_hazards.md R190) -/

theorem clockEdge_rst {p : Pins} (s : State) (rst : p.rst = true) : clockEdge p s = applyRst s := if_pos rst

/-- While `rst` is 1 the block accepts, answers and asks for nothing. -/
theorem outputs_rst (s : State) : (outputs true s).reqReady = false ∧ (outputs true s).rspValid = false ∧
    (outputs true s).memValid = false := by
  simp [outputs]

theorem outputs_reqReady_iff (s : State) : (outputs false s).reqReady = true ↔ s.fsm = .sIdle := by simp [outputs]

theorem outputs_rspValid_iff (s : State) : (outputs false s).rspValid = true ↔ s.fsm = .sResp := by simp [outputs]

/-! ### Where the edge out of `S_EXEC` leads (45_control_fsm.md R152) -/

@[simp] theorem commitStatusRead_mem (reg : Word) (s : State) : (commitStatusRead reg s).mem = s.mem := by
  cases mapped : statusReg s.params.hasData reg <;> simp [commitStatusRead, mapped]

/-- The block starts a refill or a write, or it commits: then it goes to its response, and the memory is as it was. -/
theorem edgeExec_cases (s : State) :
    edgeExec s = s.goto .sFill0 ∨ edgeExec s = s.goto .sWmem ∨
      ∃ u : State, edgeExec s = u.goto .sResp ∧ u.mem = s.mem := by
  cases legal : Instr.legal s.params.hasData (latchedInstr s) with
  | false => exact .inr (.inr ⟨_, edgeExec_illegal legal, raiseError_mem _ _⟩)
  | true =>
    cases inRange : operandInRange s.params.hasData (latchedInstr s) with
    | false => exact .inr (.inr ⟨_, edgeExec_outOfRange legal inRange, raiseError_mem _ _⟩)
    | true =>
      cases op : latchedInstr s with
      | rd addr =>
        cases look : isHit (s.line (latchedDecoded s).line) (latchedDecoded s) with
        | true => exact .inr (.inr ⟨_, edgeExec_rd_hit legal inRange op look, commitReadHit_mem _ _⟩)
        | false =>
          cases variant : s.params.hasData with
          | true => exact .inl (edgeExec_rd_fill legal inRange op variant look)
          | false => exact .inr (.inr ⟨_, edgeExec_rd_basicMiss legal inRange op variant look, commitBasicMiss_mem _ _⟩)
      | wr addr v => exact .inr (.inl (edgeExec_wr legal inRange op))
      | dec addr => exact .inr (.inr ⟨_, edgeExec_dec legal inRange op, respond_mem _ _ _ _⟩)
      | srd reg => exact .inr (.inr ⟨_, edgeExec_srd legal inRange op, commitStatusRead_mem _ _⟩)
      | reserved0 | reserved5 | reserved6 | reserved7 =>
        rw [op] at legal
        cases legal

theorem edgeExec_mem (s : State) : (edgeExec s).mem = s.mem := by
  obtain fills | writes | ⟨u, commits, kept⟩ := edgeExec_cases s
  · rw [fills, goto_mem]
  · rw [writes, goto_mem]
  · rw [commits, goto_mem, kept]

theorem edgeExec_fsm_ne_idle (s : State) : (edgeExec s).fsm ≠ .sIdle := by
  obtain fills | writes | ⟨u, commits, -⟩ := edgeExec_cases s
  · simp [fills]
  · simp [writes]
  · simp [commits]

/-! ### Before the commit edge memory is as it was (45_control_fsm.md R153) -/

/-- Only the edge of a write transfer changes memory, and that edge enters `S_RESP`. -/
theorem clockEdge_mem {p : Pins} {s : State} (noRst : p.rst = false) (uncommitted : (clockEdge p s).fsm ≠ .sResp) :
    (clockEdge p s).mem = s.mem := by
  cases state : s.fsm with
  | sIdle => cases valid : p.reqValid <;> simp [clockEdge, noRst, state, valid]
  | sExec => simp [clockEdge, noRst, state, edgeExec_mem]
  | sFill0 | sFill1 | sFill2 => cases ready : p.memReady <;> simp [clockEdge, noRst, state, ready, edgeFill]
  | sFill3 => cases ready : p.memReady <;> simp [clockEdge, noRst, state, ready, edgeFillLast]
  | sResp => simp [clockEdge, noRst, state]
  | sWmem =>
    cases ready : p.memReady with
    | false => simp [clockEdge, noRst, state, ready]
    | true => exact absurd (by simp [clockEdge, noRst, state, ready, edgeWrite]) uncommitted

theorem runEdges_mem {ps : List Pins} {s : State} (noRst : ∀ q ∈ ps, q.rst = false)
    (uncommitted : ∀ k ≤ ps.length, (runEdges (ps.take k) s).fsm ≠ .sResp) : (runEdges ps s).mem = s.mem := by
  induction ps generalizing s with
  | nil => rfl
  | cons q qs ih =>
    have rest := ih (s := clockEdge q s) (fun r hr => noRst r (.tail _ hr)) fun k hk =>
      uncommitted (k + 1) (Nat.succ_le_succ hk)
    exact rest.trans (clockEdge_mem (noRst q (.head _)) (uncommitted 1 (Nat.succ_le_succ (Nat.zero_le _))))

/-! ### An operation in progress owes one response (30_encoding.md R86, 70_reset_and_hazards.md R200) -/

/-- How many responses the block still has to give: one while an operation is in progress. -/
def responsesOwed (s : State) : Nat := if s.fsm = .sIdle then 0 else 1

theorem responsesOwed_idle {s : State} (idle : s.fsm = .sIdle) : responsesOwed s = 0 := if_pos idle

theorem responsesOwed_busy {s : State} (busy : s.fsm ≠ .sIdle) : responsesOwed s = 1 := if_neg busy

/-- In the cycle in which a request is accepted no response is given. -/
theorem responsesGiven_cons_of_idle {s : State} (p : Pins) (ps : List Pins) (idle : s.fsm = .sIdle) :
    responsesGiven (p :: ps) s = responsesGiven ps (clockEdge p s) := by
  simp [responsesGiven, outputs, idle]

section Busy

variable {p : Pins} {s : State} (noRst : p.rst = false) (busy : s.fsm ≠ .sIdle)
include noRst busy

/-- The block becomes idle at the edge that ends its response cycle, and at no other. -/
theorem clockEdge_busy_idle_iff : (clockEdge p s).fsm = .sIdle ↔ s.fsm = .sResp := by
  cases state : s.fsm with
  | sIdle => exact absurd state busy
  | sExec => simp [clockEdge, noRst, state, edgeExec_fsm_ne_idle]
  | sFill0 | sFill1 | sFill2 => cases ready : p.memReady <;> simp [clockEdge, noRst, state, ready, edgeFill]
  | sFill3 => cases ready : p.memReady <;> simp [clockEdge, noRst, state, ready, edgeFillLast]
  | sWmem => cases ready : p.memReady <;> simp [clockEdge, noRst, state, ready, edgeWrite]
  | sResp => simp [clockEdge, noRst, state]

/-- What is given in the cycle is no longer owed after it. -/
theorem responsesOwed_clockEdge : responsesGiven [p] s + responsesOwed (clockEdge p s) = responsesOwed s := by
  have idle_next := clockEdge_busy_idle_iff noRst busy
  have given := outputs_rspValid_iff s
  rw [responsesOwed_busy busy]
  by_cases responds : s.fsm = .sResp
  · simp [responsesGiven, noRst, given.2 responds, responsesOwed_idle (idle_next.2 responds)]
  · simp [responsesGiven, noRst, mt given.1 responds, responsesOwed_busy (mt idle_next.1 responds)]

/-- An edge of an operation in progress, waiting or taken, leaves the end it runs to as it was. -/
theorem completeInFlight_clockEdge_busy : completeInFlight (clockEdge p s) = completeInFlight s := by
  rw [clockEdge_busy p s noRst busy]
  split
  · rfl
  · exact completeInFlight_clockEdge s

end Busy

theorem responsesGiven_append (ps qs : List Pins) (s : State) :
    responsesGiven (ps ++ qs) s = responsesGiven ps s + responsesGiven qs (runEdges ps s) := by
  induction ps generalizing s with
  | nil => simp [responsesGiven, runEdges]
  | cons p ps ih => simp [responsesGiven, runEdges, ih, Nat.add_assoc]

theorem firstEdges_succ_last (later : Nat → Pins) (n : Nat) :
    firstEdges later (n + 1) = firstEdges later n ++ [later n] := firstEdges_add later n 1

section BusySoFar

variable {s : State} {later : Nat → Pins} (noRst : ∀ n, (later n).rst = false)
include noRst

theorem responsesGiven_add_owed {n : Nat} (busy : ∀ k < n, (runEdges (firstEdges later k) s).fsm ≠ .sIdle) :
    responsesGiven (firstEdges later n) s + responsesOwed (runEdges (firstEdges later n) s) = responsesOwed s := by
  induction n with
  | zero => exact Nat.zero_add _
  | succ n ih =>
    rw [firstEdges_succ_last, responsesGiven_append, runEdges_append, Nat.add_assoc]
    exact (congrArg _ (responsesOwed_clockEdge (noRst n) (busy n (by omega)))).trans (ih fun k hk => busy k (by omega))

theorem completeInFlight_runEdges {n : Nat} (busy : ∀ k < n, (runEdges (firstEdges later k) s).fsm ≠ .sIdle) :
    completeInFlight (runEdges (firstEdges later n) s) = completeInFlight s := by
  induction n with
  | zero => rfl
  | succ n ih =>
    rw [firstEdges_succ_last, runEdges_append]
    exact (completeInFlight_clockEdge_busy (noRst n) (busy n (by omega))).trans (ih fun k hk => busy k (by omega))

/-- With a memory that grants, there is a first edge after which the block is idle. -/
theorem exists_first_idle (grants : MemoryGrants s later) :
    ∃ n, (runEdges (firstEdges later n) s).fsm = .sIdle ∧ ∀ k < n, (runEdges (firstEdges later k) s).fsm ≠ .sIdle := by
  have reaches : ∃ n, (runEdges (firstEdges later n) s).fsm = .sIdle := by
    obtain ⟨n, reached⟩ := runEdges_reaches_completeInFlight s later noRst grants
    exact ⟨n, reached ▸ completeInFlight_fsm s⟩
  exact ⟨Nat.find reaches, Nat.find_spec reaches, fun _ hk => Nat.find_min reaches hk⟩

end BusySoFar

/-- In its response cycle a block shows the response of the end its operation runs to. -/
theorem outputs_of_resp {s : State} (responds : s.fsm = .sResp) :
    (outputs false s).rspStatus = (completeInFlight s).rspStatusQ ∧
    (outputs false s).rspOutcome = (completeInFlight s).rspOutcomeQ ∧
    (outputs false s).rspRdata = (completeInFlight s).rspRdataQ := by
  rw [completeInFlight_resp s responds]
  exact ⟨rfl, rfl, rfl⟩

/-! ### The statements -/

/-- Settles O51: before the reset edge no edge has changed memory, and that edge resets the rest; the second case is the reset
edge alone. -/
theorem resetLeavesNothingHalfDone : Obligations.ResetLeavesNothingHalfDone := by
  refine ⟨fun s ps p noRst rst uncommitted => ?_, fun s p _ rst => ?_⟩
  · have reset : runEdges (ps ++ [p]) s = applyRst (runEdges ps s) :=
      (runEdges_append ps [p] s).trans (clockEdge_rst _ rst)
    obtain ⟨lines, hits, misses, evictions, idle⟩ := resetValues_applyRst (runEdges ps s)
    rw [reset, applyRst_mem, runEdges_mem noRst uncommitted]
    exact ⟨rfl, lines, hits, misses, evictions, idle⟩
  · obtain ⟨lines, hits, misses, evictions, -⟩ := resetValues_applyRst s
    obtain ⟨-, noResponse, -⟩ := outputs_rst s
    rw [clockEdge_rst s rst, rst]
    exact ⟨applyRst_mem s, lines, hits, misses, evictions, noResponse⟩

/-- Settles O55: at the first edge that leaves the block idle again the one response owed since the acceptance has been given,
and every state before it runs to the operation level's state. -/
theorem oneResponsePerRequest : Obligations.OneResponsePerRequest := by
  intro s w p later idle noRst valid op addr wdata laterNoRst grants
  have accepted := clockEdge_accepts idle noRst valid op addr wdata
  have started : (clockEdge p s).fsm ≠ .sIdle := by rw [accepted, acceptWord_fsm]; decide
  obtain ⟨n, ends, busy⟩ := exists_first_idle laterNoRst grants
  refine ⟨n, completeInFlight (clockEdge p s), ?_, ?_, (outputs_reqReady_iff _).2 ends,
    fun k hk => Bool.eq_false_iff.2 fun ready => busy k hk ((outputs_reqReady_iff _).1 ready), fun k hk responds => ?_⟩
  · rw [accepted, completeInFlight_exec (acceptWord_fsm s w)]
    exact exec_latched (acceptWord w s)
  · have given := responsesGiven_add_owed laterNoRst busy
    rw [responsesOwed_idle ends, responsesOwed_busy started] at given
    exact (responsesGiven_cons_of_idle p _ idle).trans given
  · have same_end := completeInFlight_runEdges (n := k) laterNoRst fun j hj => busy j (by omega)
    rw [← same_end]
    exact outputs_of_resp ((outputs_rspValid_iff _).1 responds)

/-- Settles O50: the edge is the reset, during it nothing is accepted, given or asked for, and after it the block is idle. -/
theorem rstAtAnyEdgeResets : Obligations.RstAtAnyEdgeResets := by
  intro p s rst
  obtain ⟨lines, hits, misses, evictions, idle⟩ := resetValues_applyRst s
  obtain ⟨notReady, noResponse, noTransfer⟩ := outputs_rst s
  rw [clockEdge_rst s rst, rst]
  exact ⟨lines, hits, misses, evictions, idle, fun _ => by rw [applyRst_mem], notReady, noResponse, noTransfer,
    (outputs_reqReady_iff _).2 idle⟩

end Sys2Proof.Machine
end

section
/-! PROOFS of the statements of 30_encoding.md on request words: decoder and encoder, the ignored field, and the
pseudo-operations. -/

namespace Sys2Proof.Machine

/-! ### The latch `wdata_q` under the operations (30_encoding.md R91)

An operation holds its operands, so it does not look at the latch, which each of its changes carries through. -/

/-- The state with another word in the latch `wdata_q`. -/
def State.withWdata (s : State) (v : Word) : State := { s with wdataQ := v }

section WithWdata

variable (s : State) (v : Word)

theorem withWdata_line (i : LineIndex) : (s.withWdata v).line i = s.line i := rfl
theorem withWdata_mem : (s.withWdata v).mem = s.mem := rfl
theorem withWdata_goto (f : Fsm) : (s.withWdata v).goto f = (s.goto f).withWdata v := rfl
theorem withWdata_fetchBlock (b : BitVec 8) : (s.withWdata v).fetchBlock b = (s.fetchBlock b).withWdata v := rfl
theorem withWdata_writeTransfer (a : Addr) (x : Word) :
    (s.withWdata v).writeTransfer a x = (s.writeTransfer a x).withWdata v := rfl
theorem withWdata_commitFill (d : Decoded) (b : Vector Word 4) :
    commitFill d b (s.withWdata v) = (commitFill d b s).withWdata v := rfl
theorem withWdata_commitBasicMiss (d : Decoded) :
    commitBasicMiss d (s.withWdata v) = (commitBasicMiss d s).withWdata v := rfl

theorem withWdata_commitReadHit (d : Decoded) :
    commitReadHit d (s.withWdata v) = (commitReadHit d s).withWdata v := by
  have same : (s.withWdata v).params = s.params := rfl
  cases variant : s.params.hasData <;> simp only [commitReadHit, same, variant] <;> rfl

theorem withWdata_commitWrite (d : Decoded) (x : Word) :
    commitWrite d x (s.withWdata v) = (commitWrite d x s).withWdata v := by
  cases look : isHit (s.line d.line) d <;> simp only [commitWrite, withWdata_line, look] <;> rfl

end WithWdata

theorem execRd_withWdata (s : State) {addr : Word} (inRange : inMemory addr = true) :
    ∃ t : State, ∀ v : Word, exec (.rd addr) (s.withWdata v) = .next (t.withWdata v) := by
  cases look : isHit (s.line (decodeAddress (lowAddr addr)).line) (decodeAddress (lowAddr addr)) with
  | true =>
    refine ⟨(commitReadHit (decodeAddress (lowAddr addr)) s).goto .sIdle, fun v => ?_⟩
    rw [execRd_hit (s.withWdata v) inRange look, withWdata_commitReadHit, withWdata_goto]
  | false =>
    cases variant : s.params.hasData with
    | true =>
      refine ⟨(commitFill (decodeAddress (lowAddr addr)) (s.mem.block (decodeAddress (lowAddr addr)).blockIndex)
        (s.fetchBlock (decodeAddress (lowAddr addr)).blockIndex)).goto .sIdle, fun v => ?_⟩
      rw [execRd_fill (s.withWdata v) inRange variant look, withWdata_mem, withWdata_fetchBlock, withWdata_commitFill,
        withWdata_goto]
    | false =>
      refine ⟨(commitBasicMiss (decodeAddress (lowAddr addr)) s).goto .sIdle, fun v => ?_⟩
      rw [execRd_basicMiss (s.withWdata v) inRange variant look, withWdata_commitBasicMiss, withWdata_goto]

/-- An operation gives the same next state whatever the latch holds, but for the latch. -/
theorem exec_withWdata (i : Instr) (s : State) :
    ∃ t : State, ∀ v : Word, exec i (s.withWdata v) = .next (t.withWdata v) := by
  cases legal : Instr.legal s.params.hasData i with
  | false => exact ⟨onlyResponds s .illegal .none 0, fun v => exec_illegal (s := s.withWdata v) legal⟩
  | true =>
    cases inRange : operandInRange s.params.hasData i with
    | false => exact ⟨onlyResponds s .oob .none 0, fun v => exec_outOfRange (s := s.withWdata v) legal inRange⟩
    | true =>
      cases i with
      | rd addr => exact execRd_withWdata s inRange
      | wr addr x =>
        refine ⟨(writeReference (lowAddr addr) x s).goto .sIdle, fun v => ?_⟩
        rw [execWr_inRange (s.withWdata v) x legal inRange, withWdata_writeTransfer, withWdata_commitWrite,
          withWdata_goto, writeReference]
      | dec addr => exact ⟨onlyResponds s .ok .none _, fun v => execDec_inRange (s.withWdata v) inRange⟩
      | srd reg =>
        obtain ⟨r, mapped⟩ := Option.isSome_iff_exists.1 inRange
        refine ⟨onlyResponds s .ok .none (readStatus s r), fun v => (execSrd_mapped (s.withWdata v) mapped).trans ?_⟩
        cases r <;> rfl
      | reserved0 | reserved5 | reserved6 | reserved7 => cases legal

/-- The decoder passes the field on for the code of `WR` alone (30_encoding.md R85). -/
theorem decodeFields_wdata {op : OpCode} (notWrite : op ≠ 0b010) (addr v w : Word) :
    decodeFields op addr v = decodeFields op addr w := by
  obtain ⟨h, e⟩ | ⟨h, e⟩ | ⟨h, e⟩ | ⟨h, e⟩ | ⟨h, e⟩ | ⟨h, e⟩ | ⟨h, e⟩ | ⟨h, e⟩ := decodeFields_cases op addr v
  case inr.inr.inl => exact absurd h notWrite
  all_goals subst h; rfl

/-! ### The statements -/

/-- Settles O1: the fields of the encoded word are those of the operation, and its code selects it. -/
theorem decodeUndoesEncode : Obligations.DecodeUndoesEncode := by
  intro i
  have fields : decode (encode i) = decodeFields i.opCode i.addrField i.wdataField := decode_requestWord _ _ _
  rw [fields]
  cases i <;> rfl

/-- Settles O2, code by code. -/
theorem decodeDropsOnlyIgnoredFields : Obligations.DecodeDropsOnlyIgnoredFields := by
  intro w
  obtain ⟨op, read⟩ | ⟨op, read⟩ | ⟨op, read⟩ | ⟨op, read⟩ | ⟨op, read⟩ | ⟨op, read⟩ | ⟨op, read⟩ | ⟨op, read⟩ :=
    decodeFields_cases (reqOp w) (reqAddr w) (reqWdata w) <;>
  · rw [decode, read, op]
    rfl

/-- Settles O5: the two words decode to one operation, which does not see the latch. -/
theorem ignoredWriteDataChangesNothing : Obligations.IgnoredWriteDataChangesNothing := by
  intro s op addr v w rest idle notWrite
  obtain ⟨t, runs⟩ := exec_withWdata (decodeFields op addr v) (accept op addr 0 { s with stimuli := rest })
  have step_request (x : Word) : step { s with stimuli := .request (requestWord op addr x) :: rest } =
      exec (decodeFields op addr x) ((accept op addr 0 { s with stimuli := rest }).withWdata x) := by
    refine (step_idle_request (s := { s with stimuli := .request (requestWord op addr x) :: rest }) idle rfl).trans ?_
    rw [decode_requestWord, acceptWord, reqOp_requestWord, reqAddr_requestWord, reqWdata_requestWord]
    rfl
  refine ⟨t, (step_request v).trans (runs v), (step_request w).trans ?_⟩
  rw [decodeFields_wdata notWrite addr w v]
  exact runs w

/-- Settles O3: the decoder of a word of three fields, at each code. -/
theorem eachCodeNamesItsOperation : Obligations.EachCodeNamesItsOperation := by
  intro a v
  simp only [decode_requestWord]
  exact ⟨rfl, rfl, rfl, rfl, rfl, rfl, rfl, rfl⟩

/-- Settles O4, by running the decoder on the eight words. -/
theorem wordsOfTheSpecDecode : Obligations.WordsOfTheSpecDecode :=
  ⟨rfl, rfl, rfl, rfl, rfl, rfl, rfl, rfl⟩

/-- Settles O7, for each of the sixteen lines and both variants. -/
theorem pseudoOperationsAreSrdSequences : Obligations.PseudoOperationsAreSrdSequences := by
  refine ⟨rfl, ?_, ?_, ?_⟩ <;> decide

end Sys2Proof.Machine
end

section
/-! PROOFS of the statements of 40_address_decode.md on `DEC` and of 44_status.md on the counters and the unmapped
numbers. -/

namespace Sys2Proof.Machine

/-! ### The packed decomposition (40_address_decode.md R105) -/

/-- A slice of the packed word is `x` when its number has `x` in that place. -/
theorem packDecoded_extract (d : Decoded) {start len : Nat} {x : BitVec len}
    (slice : (d.blockIndex.toNat * 1024 + d.tag.toNat * 64 + d.line.toNat * 4 + d.offset.toNat) / 2 ^ start % 2 ^ len =
      x.toNat) : (packDecoded d).extractLsb' start len = x := by
  apply BitVec.eq_of_toNat_eq
  rw [BitVec.extractLsb'_toNat, Nat.shiftRight_eq_div_pow, packDecoded_toNat, slice]

section Fields

variable (d : Decoded)

theorem packDecoded_offset : (packDecoded d).extractLsb' 0 2 = d.offset :=
  packDecoded_extract d (by have := d.offset.isLt; omega)

theorem packDecoded_line : (packDecoded d).extractLsb' 2 4 = d.line :=
  packDecoded_extract d (by have := d.offset.isLt; have := d.line.isLt; omega)

theorem packDecoded_tag : (packDecoded d).extractLsb' 6 4 = d.tag :=
  packDecoded_extract d (by have := d.offset.isLt; have := d.line.isLt; have := d.tag.isLt; omega)

theorem packDecoded_blockIndex : (packDecoded d).extractLsb' 10 8 = d.blockIndex :=
  packDecoded_extract d (by
    have := d.offset.isLt; have := d.line.isLt; have := d.tag.isLt; have := d.blockIndex.isLt; omega)

theorem packDecoded_unused : (packDecoded d).extractLsb' 18 14 = 0 :=
  packDecoded_extract d (by
    have := d.offset.isLt; have := d.line.isLt; have := d.tag.isLt; have := d.blockIndex.isLt
    rw [show (0 : BitVec 14).toNat = 0 from rfl]; omega)

end Fields

/-- Tag, line and offset side by side are the address. -/
theorem packDecoded_decodeAddress_low (a : Addr) : (packDecoded (decodeAddress a)).extractLsb' 0 10 = a := by
  obtain ⟨hoffset, -, hline, htag⟩ := decodeAddress_toNat a
  exact packDecoded_extract _ (by have := a.isLt; omega)

theorem decode_lowAddr_blockIndex (addr : Word) : (decodeAddress (lowAddr addr)).blockIndex = addr.extractLsb' 2 8 := by
  obtain ⟨-, hblock, -⟩ := decodeAddress_toNat (lowAddr addr)
  apply BitVec.eq_of_toNat_eq
  rw [hblock, lowAddr, BitVec.toNat_setWidth, BitVec.extractLsb'_toNat, Nat.shiftRight_eq_div_pow]
  omega

/-! ### Numbers outside the status map (44_status.md R140, R141) -/

theorem statusReg_unmapped {hasData : Bool} {reg : Word}
    (unmapped : (0x003 ≤ reg.toNat ∧ reg.toNat ≤ 0x00F) ∨ (0x020 ≤ reg.toNat ∧ reg.toNat ≤ 0x03F) ∨ 0x080 ≤ reg.toNat ∨
      (hasData = false ∧ 0x040 ≤ reg.toNat ∧ reg.toNat ≤ 0x07F)) : statusReg hasData reg = none := by
  have noData : ¬ (hasData = true ∧ 0x040 ≤ reg.toNat ∧ reg.toNat ≤ 0x07F) := by
    rintro ⟨rfl, lower, upper⟩
    obtain below | between | above | ⟨basic, -⟩ := unmapped
    case inr.inr.inr => cases basic
    all_goals omega
  simp only [statusReg]
  rw [if_neg (by omega), if_neg (by omega), if_neg (by omega), if_neg (by omega), if_neg noData]

/-! ### The statements -/

/-- Settles O12: the response is the packed word, read field by field, or the range check fails. -/
theorem decAnswersTheDecomposition : Obligations.DecAnswersTheDecomposition := by
  refine fun s addr => ⟨fun bound => ?_, fun above => execDec_outOfRange s ((inMemory_false_iff addr).2 above)⟩
  refine ⟨_, execDec_inRange s ((inMemory_iff addr).2 bound), packDecoded_offset _, packDecoded_line _, packDecoded_tag _,
    packDecoded_blockIndex _, packDecoded_unused _, ?_, ?_⟩
  · rw [packDecoded_decodeAddress_low, lowAddr, BitVec.setWidth_eq_extractLsb' (by decide)]
  · rw [packDecoded_blockIndex, decode_lowAddr_blockIndex]

/-- Settles O16: an unmapped number names no register. -/
theorem srdUnmappedIsOutOfBounds : Obligations.SrdUnmappedIsOutOfBounds :=
  fun s _ unmapped => execSrd_unmapped s (statusReg_unmapped unmapped)

/-- Settles O13: the first three numbers of the map name the counters. -/
theorem srdReadsTheCounters : Obligations.SrdReadsTheCounters := by
  intro s
  exact ⟨execSrd_mapped s (r := .hits) rfl, execSrd_mapped s (r := .misses) rfl, execSrd_mapped s (r := .evictions) rfl⟩

end Sys2Proof.Machine
end

section
/-! PROOFS of the statements of 41_lookup_fill.md and 42_read.md: what a read in range does, in both variants, and what a
second reference to the line then meets. -/

namespace Sys2Proof.Machine

theorem counted_eq_ite (c : Word) (event : Bool) : counted c event = if event then satinc c else c := by
  cases event <;> simp [satinc_eq_counted]

theorem SameRequestSide.hasData {s t : State} (same : SameRequestSide s t) : t.params.hasData = s.params.hasData :=
  congrArg Params.hasData same.params

/-! ### What a read in range does to each part of the state (42_read.md R120)

The state is the one `exec` ends in, the block idle again; `hit` is what the comparator says of the line before. -/

section Read

variable {s : State} {a : Addr} {hit : Bool}

theorem exec_rd_readReference {addr : Word} (inRange : inMemory addr = true) :
    exec (.rd addr) s = .next ((readReference (lowAddr addr) s).goto .sIdle) := by
  simp only [exec, execRd, inRange, if_true, complete_eq]

theorem readReference_of_hit (look : isHit (s.line (decodeAddress a).line) (decodeAddress a) = true) :
    readReference a s = commitReadHit (decodeAddress a) s := if_pos look

theorem readReference_of_fill (look : isHit (s.line (decodeAddress a).line) (decodeAddress a) = false)
    (ext : s.params.hasData = true) : readReference a s = commitFill (decodeAddress a)
      (s.mem.block (decodeAddress a).blockIndex) (s.fetchBlock (decodeAddress a).blockIndex) :=
  (if_neg (Bool.eq_false_iff.1 look)).trans (if_pos ext)

theorem readReference_of_basicMiss (look : isHit (s.line (decodeAddress a).line) (decodeAddress a) = false)
    (basic : s.params.hasData = false) : readReference a s = commitBasicMiss (decodeAddress a) s :=
  (if_neg (Bool.eq_false_iff.1 look)).trans (if_neg (Bool.eq_false_iff.1 basic))

variable (s a) in
/-- A read in range is a hit, a refill, or a miss of the basic variant. -/
theorem readReference_cases :
    (isHit (s.line (decodeAddress a).line) (decodeAddress a) = true ∧
      readReference a s = commitReadHit (decodeAddress a) s) ∨
    (isHit (s.line (decodeAddress a).line) (decodeAddress a) = false ∧
      readReference a s = commitFill (decodeAddress a) (s.mem.block (decodeAddress a).blockIndex)
        (s.fetchBlock (decodeAddress a).blockIndex)) ∨
    (isHit (s.line (decodeAddress a).line) (decodeAddress a) = false ∧
      readReference a s = commitBasicMiss (decodeAddress a) s) := by
  cases look : isHit (s.line (decodeAddress a).line) (decodeAddress a) with
  | true => exact .inl ⟨rfl, readReference_of_hit look⟩
  | false =>
    cases variant : s.params.hasData with
    | true => exact .inr (.inl ⟨rfl, readReference_of_fill look variant⟩)
    | false => exact .inr (.inr ⟨rfl, readReference_of_basicMiss look variant⟩)

theorem readReference_status : ((readReference a s).goto .sIdle).rspStatusQ = .ok := by
  obtain ⟨-, e⟩ | ⟨-, e⟩ | ⟨-, e⟩ := readReference_cases s a <;> simp [e]

theorem readReference_outcome (look : isHit (s.line (decodeAddress a).line) (decodeAddress a) = hit) :
    ((readReference a s).goto .sIdle).rspOutcomeQ =
      if hit then .hit else missOutcome (s.line (decodeAddress a).line).valid := by
  subst look
  obtain ⟨look, e⟩ | ⟨look, e⟩ | ⟨look, e⟩ := readReference_cases s a <;> simp [e, look]

/-- A read counts a hit or a miss, and on a miss of a valid line an eviction (41_lookup_fill.md R115). -/
theorem readReference_counted (look : isHit (s.line (decodeAddress a).line) (decodeAddress a) = hit) :
    Counted s ((readReference a s).goto .sIdle) hit (!hit) (!hit && (s.line (decodeAddress a).line).valid) := by
  subst look
  obtain ⟨look, e⟩ | ⟨look, e⟩ | ⟨look, e⟩ := readReference_cases s a <;> constructor <;>
    simp [e, look, counted_eq_ite]

theorem readReference_line_of_ne {j : LineIndex} (other : j ≠ (decodeAddress a).line) :
    ((readReference a s).goto .sIdle).line j = s.line j := by
  obtain ⟨-, e⟩ | ⟨-, e⟩ | ⟨-, e⟩ := readReference_cases s a <;>
    simp [e, line_commitReadHit, line_commitFill, line_commitBasicMiss, other]

/-- After a read its line holds the tag and the offset of the address (41_lookup_fill.md R119). -/
theorem readReference_line_valid : (((readReference a s).goto .sIdle).line (decodeAddress a).line).valid = true := by
  obtain ⟨look, e⟩ | ⟨-, e⟩ | ⟨-, e⟩ := readReference_cases s a
  · simp [e, line_commitReadHit, ((isHit_iff _ _).1 look).1]
  · simp [e, line_commitFill]
  · simp [e, line_commitBasicMiss]

theorem readReference_line_tag :
    (((readReference a s).goto .sIdle).line (decodeAddress a).line).tag = (decodeAddress a).tag := by
  obtain ⟨look, e⟩ | ⟨-, e⟩ | ⟨-, e⟩ := readReference_cases s a
  · simp [e, line_commitReadHit, ((isHit_iff _ _).1 look).2]
  · simp [e, line_commitFill]
  · simp [e, line_commitBasicMiss]

theorem readReference_line_lastOffset :
    (((readReference a s).goto .sIdle).line (decodeAddress a).line).lastOffset = (decodeAddress a).offset := by
  obtain ⟨-, e⟩ | ⟨-, e⟩ | ⟨-, e⟩ := readReference_cases s a <;>
    simp [e, line_commitReadHit, line_commitFill, line_commitBasicMiss]

theorem readReference_line_blockIndex_of_miss
    (look : isHit (s.line (decodeAddress a).line) (decodeAddress a) = false) :
    (((readReference a s).goto .sIdle).line (decodeAddress a).line).blockIndex = (decodeAddress a).blockIndex := by
  obtain ⟨hit, -⟩ | ⟨-, e⟩ | ⟨-, e⟩ := readReference_cases s a
  · rw [look] at hit; cases hit
  · simp [e, line_commitFill]
  · simp [e, line_commitBasicMiss]

/-- A read hit sets `lastOffset` and nothing else of the line (41_lookup_fill.md R117). -/
theorem readReference_line_of_hit (look : isHit (s.line (decodeAddress a).line) (decodeAddress a) = true) :
    ((readReference a s).goto .sIdle).line (decodeAddress a).line =
      touch (decodeAddress a) (s.line (decodeAddress a).line) := by
  rw [line_goto, readReference_of_hit look, line_commitReadHit, if_pos rfl]

/-- A read never changes memory (20_memory.md R62). -/
theorem readReference_mem : ((readReference a s).goto .sIdle).mem = s.mem := by
  obtain ⟨-, e⟩ | ⟨-, e⟩ | ⟨-, e⟩ := readReference_cases s a <;> simp [e]

theorem readReference_sameRequestSide : SameRequestSide s ((readReference a s).goto .sIdle) := by
  obtain ⟨-, e⟩ | ⟨-, e⟩ | ⟨-, e⟩ := readReference_cases s a <;> constructor <;> simp [e]

/-- The word returned is the cached one, the fetched one, or in the basic variant a free value (42_read.md R120, R124). -/
theorem readReference_rdata_of_hit (look : isHit (s.line (decodeAddress a).line) (decodeAddress a) = true)
    (ext : s.params.hasData = true) : ((readReference a s).goto .sIdle).rspRdataQ =
      (s.line (decodeAddress a).line).data[(decodeAddress a).offset.toNat]'(decodeAddress a).offset.isLt := by
  rw [goto_rspRdataQ, readReference_of_hit look, commitReadHit_rspRdataQ, if_pos ext]

theorem readReference_rdata_of_fill (look : isHit (s.line (decodeAddress a).line) (decodeAddress a) = false)
    (ext : s.params.hasData = true) : ((readReference a s).goto .sIdle).rspRdataQ = s.mem.read a := by
  rw [goto_rspRdataQ, readReference_of_fill look ext, commitFill_rspRdataQ, block_get_decode]

/-- A read of the extended variant that hits makes no transfer and leaves the fill buffer (20_memory.md R65). -/
theorem readReference_transfers_of_hit (look : isHit (s.line (decodeAddress a).line) (decodeAddress a) = true) :
    ((readReference a s).goto .sIdle).transfers = s.transfers := by
  rw [goto_transfers, readReference_of_hit look, commitReadHit_transfers]

theorem readReference_fb_of_hit (look : isHit (s.line (decodeAddress a).line) (decodeAddress a) = true) :
    ((readReference a s).goto .sIdle).fb = s.fb := by
  rw [goto_fb, readReference_of_hit look, commitReadHit_fb]

theorem readReference_drawn_of_hasData (ext : s.params.hasData = true) :
    ((readReference a s).goto .sIdle).drawn = s.drawn := by
  cases look : isHit (s.line (decodeAddress a).line) (decodeAddress a) with
  | true => rw [goto_drawn, readReference_of_hit look, commitReadHit_drawn, if_pos ext]
  | false => rw [goto_drawn, readReference_of_fill look ext, commitFill_drawn, fetchBlock_drawn]

end Read

/-- The fill buffer after a refill, word by word (10_state.md R34). -/
theorem fetchBlock_fb_get (s : State) (b : BitVec 8) (k : Fin 3) :
    (s.fetchBlock b).fb[k.val] = s.mem.read (BitVec.ofNat 10 (b.toNat * 4 + k.val)) := by
  have word (w : Offset) := congrArg s.mem.read (ofNat_eq_wordAddress b w).symm
  simp only [fetchBlock_fb]
  match k with
  | 0 => exact word 0
  | 1 => exact word 1
  | 2 => exact word 2

/-! ### What a read of the basic variant draws and leaves (42_read.md R124) -/

/-- What the two paths of a basic read have in common: it answers with a free value and touches neither data nor memory. -/
structure ReadsFreely (s t : State) (i : LineIndex) : Prop where
  rdata : t.rspRdataQ = Config.any32 s.drawn
  data : (t.line i).data = (s.line i).data
  transfers : t.transfers = s.transfers
  fb : t.fb = s.fb
  drawn : t.drawn = s.drawn + 1

theorem readReference_readsFreely {s : State} {a : Addr} (basic : s.params.hasData = false) :
    ReadsFreely s ((readReference a s).goto .sIdle) (decodeAddress a).line := by
  cases look : isHit (s.line (decodeAddress a).line) (decodeAddress a) with
  | true => rw [readReference_of_hit look]; constructor <;> simp [basic, line_commitReadHit]
  | false => rw [readReference_of_basicMiss look basic]; constructor <;> simp [line_commitBasicMiss]

/-! ### The statements on one read -/

/-- Settles O21: the selected line is touched, and the rest is that of any read hit. -/
theorem rdHitReturnsTheCachedWord : Obligations.RdHitReturnsTheCachedWord := by
  intro s addr ext bound valid tag
  have look := (isHit_iff _ _).2 ⟨valid, tag⟩
  exact ⟨_, exec_rd_readReference ((inMemory_iff addr).2 bound),
    ⟨readReference_status, readReference_outcome look, readReference_rdata_of_hit look ext⟩,
    readReference_line_of_hit look, fun _ => readReference_line_of_ne, readReference_counted look,
    fun _ => by rw [readReference_mem], readReference_transfers_of_hit look, readReference_sameRequestSide,
    readReference_fb_of_hit look, readReference_drawn_of_hasData ext, goto_fsm _ _⟩

/-- Settles O22: the line is the fetched block under the address's metadata, and the transfers and the fill buffer are those
of the fetch. -/
theorem rdMissFillsTheLine : Obligations.RdMissFillsTheLine := by
  intro s addr ext bound notHeld
  have look := Bool.eq_false_iff.2 (mt (isHit_iff _ _).1 notHeld)
  refine ⟨_, exec_rd_readReference ((inMemory_iff addr).2 bound),
    ⟨readReference_status, readReference_outcome look, readReference_rdata_of_fill look ext⟩, readReference_line_valid,
    readReference_line_tag, readReference_line_blockIndex_of_miss look, readReference_line_lastOffset, fun w => ?data,
    fun _ => readReference_line_of_ne, readReference_counted look, fun _ => by rw [readReference_mem], ?transfers,
    fun k => ?fb, readReference_sameRequestSide, readReference_drawn_of_hasData ext, goto_fsm _ _⟩
  case data =>
    simp only [readReference_of_fill look ext, line_goto, line_fillReference, if_true, fillBlock_data, block_get,
      ofNat_eq_wordAddress]
  case transfers =>
    rw [readReference_of_fill look ext, goto_transfers, commitFill_transfers, fetchBlock_transfers]
    simp only [← ofNat_eq_wordAddress]
    rfl
  case fb =>
    simp only [readReference_of_fill look ext, goto_fb, commitFill_fb]
    exact fetchBlock_fb_get s _ k

/-- Settles O23: hit and miss differ in the outcome, the counters and the block index; the rest is that of any read, and the
word that of a free one. -/
theorem rdOfTheBasicVariant : Obligations.RdOfTheBasicVariant := by
  intro s addr basic bound
  obtain ⟨rdata, data, transfers, fb, drawn⟩ := readReference_readsFreely (a := lowAddr addr) basic
  refine ⟨_, exec_rd_readReference ((inMemory_iff addr).2 bound), ?outcome, readReference_line_valid,
    readReference_line_tag, fun valid tag => ?blockIndex, readReference_line_lastOffset, data,
    fun _ => readReference_line_of_ne, fun _ => by rw [readReference_mem], transfers, readReference_sameRequestSide, fb,
    drawn, goto_fsm _ _⟩
  case outcome =>
    split
    case isTrue held =>
      have look := (isHit_iff _ _).2 held
      exact ⟨⟨readReference_status, readReference_outcome look, rdata⟩, readReference_counted look⟩
    case isFalse notHeld =>
      have look := Bool.eq_false_iff.2 (mt (isHit_iff _ _).1 notHeld)
      exact ⟨⟨readReference_status, readReference_outcome look, rdata⟩, readReference_counted look,
        readReference_line_blockIndex_of_miss look⟩
  case blockIndex => rw [readReference_line_of_hit ((isHit_iff _ _).2 ⟨valid, tag⟩), touch_blockIndex]

/-! ### A second reference to the line (41_lookup_fill.md R116, R119) -/

/-- Addresses of one block have the same line and tag, however wide they are written. -/
theorem decode_lowAddr_congr {a b : Word} (sameBlock : a >>> 2 = b >>> 2) :
    (decodeAddress (lowAddr a)).line = (decodeAddress (lowAddr b)).line ∧
    (decodeAddress (lowAddr a)).tag = (decodeAddress (lowAddr b)).tag := by
  have quotients : a.toNat / 4 = b.toNat / 4 := by
    simpa [Nat.shiftRight_eq_div_pow] using congrArg BitVec.toNat sameBlock
  have low : lowAddr a >>> 2 = lowAddr b >>> 2 := by
    apply BitVec.eq_of_toNat_eq
    simp only [lowAddr, BitVec.toNat_ushiftRight, BitVec.toNat_setWidth, Nat.shiftRight_eq_div_pow]
    omega
  obtain ⟨line, tag, -⟩ := lineSelectionDependsOnTheBlock.1 _ _ low
  exact ⟨line, tag⟩

/-- After a read, a reference to the same line hits exactly when it asks for the same tag. -/
theorem isHit_after_read {s : State} {a b : Addr} (sameLine : (decodeAddress a).line = (decodeAddress b).line) :
    isHit (((readReference a s).goto .sIdle).line (decodeAddress b).line) (decodeAddress b) =
      decide ((decodeAddress a).tag = (decodeAddress b).tag) := by
  rw [isHit, ← sameLine, readReference_line_valid, readReference_line_tag, Bool.true_and]
  rfl

/-- Where the invariant holds, the line of a read holds the block index of the address: on a hit it has held it before. -/
theorem readReference_line_blockIndex {s : State} {a : Addr} (inv : Inv s) :
    (((readReference a s).goto .sIdle).line (decodeAddress a).line).blockIndex = (decodeAddress a).blockIndex := by
  cases look : isHit (s.line (decodeAddress a).line) (decodeAddress a) with
  | false => exact readReference_line_blockIndex_of_miss look
  | true =>
    obtain ⟨valid, -⟩ := (isHit_iff _ _).1 look
    rw [readReference_line_of_hit look, touch_blockIndex]
    exact blockIndex_of_isHit a _ look (inv.blockIndexAgrees _ valid)

/-! ### The statements on two references -/

/-- Settles O26: the write miss leaves the line as it was, so the read misses it too and fetches the word written. -/
theorem readAfterWriteMissStillMisses : Obligations.ReadAfterWriteMissStillMisses := by
  intro s addr v ext bound notHeld
  have inRange := (inMemory_iff addr).2 bound
  have look := Bool.eq_false_iff.2 (mt (isHit_iff _ _).1 notHeld)
  have same := writeReference_line_of_miss v look
  have stillMisses := (congrArg (isHit · (decodeAddress (lowAddr addr))) (same _)).trans look
  refine ⟨_, _, exec_wr_writeReference v ext inRange, exec_rd_readReference inRange, ?_, ?_⟩
  · rw [readReference_outcome stillMisses, same]
    rfl
  · rw [readReference_rdata_of_fill stillMisses ((writeReference_sameRequestSide v).hasData.trans ext),
      writeReference_mem_read, if_pos rfl]

/-- Settles O32: the read leaves its line valid with the tag of the block, and a reference to the block asks for that line
and that tag. -/
theorem aReadMakesItsBlockHit : Obligations.AReadMakesItsBlockHit := by
  intro s a b v boundA boundB sameBlock
  have inRange := (inMemory_iff b).2 boundB
  obtain ⟨sameLine, sameTag⟩ := decode_lowAddr_congr sameBlock
  have look := (isHit_after_read (s := s) sameLine).trans (decide_eq_true sameTag)
  refine ⟨_, _, exec_rd_readReference ((inMemory_iff a).2 boundA), exec_rd_readReference inRange,
    readReference_outcome look, readReference_line_valid, readReference_line_tag, readReference_line_lastOffset,
    readReference_line_blockIndex, fun ext => ?_⟩
  exact ⟨_, exec_wr_writeReference v (readReference_sameRequestSide.hasData.trans ext) inRange,
    (writeReference_responds v look).outcome⟩

/-- Settles O33: the first read leaves the line valid with another tag, so the second misses a valid line. -/
theorem conflictingReadAlwaysEvicts : Obligations.ConflictingReadAlwaysEvicts := by
  intro s a b boundA boundB sameLine otherTag
  have look := (isHit_after_read (s := s) sameLine).trans (decide_eq_false otherTag)
  have outcome := readReference_outcome look
  have counted := readReference_counted look
  rw [← sameLine, readReference_line_valid] at outcome counted
  refine ⟨_, _, exec_rd_readReference ((inMemory_iff a).2 boundA), exec_rd_readReference ((inMemory_iff b).2 boundB),
    outcome, counted, ?_, ?_⟩
  · rw [sameLine, readReference_line_valid]
  · rw [sameLine, readReference_line_tag]

end Sys2Proof.Machine
end

section
/-! PROOFS of the rules of 10_state.md over all operations: what changes lines, memory and counters, and by how much. -/

namespace Sys2Proof.Machine

/-! ### References that end `OK`, and everything else -/

/-- The two references (00_scope.md R11). -/
def isReference : Instr → Bool
  | .rd _ | .wr _ _ => true
  | .dec _ | .srd _ | .reserved0 | .reserved5 | .reserved6 | .reserved7 => false

/-- A reference that passes both checks. -/
def isOkRef (hasData : Bool) (i : Instr) : Bool :=
  isReference i && Instr.legal hasData i && operandInRange hasData i

/-- The requests that `isOkReference` counts are those whose operation is a reference that passes both checks. -/
theorem isOkReference_eq (hasData : Bool) (w : RequestWord) : isOkReference hasData w = isOkRef hasData (decode w) := by
  unfold isOkReference isOkRef
  cases decode w <;> rfl

/-- What any operation is: a read in range, a write in range of the extended variant, or a response and nothing else. -/
theorem exec_reference_cases (i : Instr) (s : State) :
    (∃ addr, i = .rd addr ∧ inMemory addr = true ∧
      exec i s = .next ((readReference (lowAddr addr) s).goto .sIdle)) ∨
    (∃ addr v, i = .wr addr v ∧ s.params.hasData = true ∧ inMemory addr = true ∧
      exec i s = .next ((writeReference (lowAddr addr) v s).goto .sIdle)) ∨
    (isOkRef s.params.hasData i = false ∧ ∃ st w, exec i s = .next (onlyResponds s st .none w)) := by
  cases legal : Instr.legal s.params.hasData i with
  | false => exact .inr (.inr ⟨by simp [isOkRef, legal], _, _, exec_illegal legal⟩)
  | true =>
    cases inRange : operandInRange s.params.hasData i with
    | false => exact .inr (.inr ⟨by simp [isOkRef, inRange], _, _, exec_outOfRange legal inRange⟩)
    | true =>
      cases i with
      | rd addr => exact .inl ⟨addr, rfl, inRange, exec_rd_readReference inRange⟩
      | wr addr v => exact .inr (.inl ⟨addr, v, rfl, legal, inRange, exec_wr_writeReference v legal inRange⟩)
      | dec addr => exact .inr (.inr ⟨rfl, _, _, execDec_inRange s inRange⟩)
      | srd reg =>
        obtain ⟨r, mapped⟩ := Option.isSome_iff_exists.1 inRange
        exact .inr (.inr ⟨rfl, _, _, execSrd_mapped s mapped⟩)
      | reserved0 | reserved5 | reserved6 | reserved7 => cases legal

/-! ### The counters of any operation (10_state.md R30, R31) -/

theorem counted_toNat (c : Word) (event : Bool) : (counted c event).toNat = min (c.toNat + event.toNat) (2 ^ 32 - 1) := by
  have := c.isLt
  rw [counted_eq_ite]
  cases event with
  | false => simp; omega
  | true => rw [if_pos rfl, satinc_toNat]; rfl

theorem counted_le (c : Word) (event : Bool) :
    c.toNat ≤ (counted c event).toNat ∧ (counted c event).toNat ≤ c.toNat + 1 := by
  have := c.isLt
  have := event.toNat_le
  rw [counted_toNat]
  omega

theorem counted_onlyResponds (s : State) (st : Status) (o : RefOutcome) (w : Word) :
    Counted s (onlyResponds s st o w) false false false where
  hits := (counted_false _).symm
  misses := (counted_false _).symm
  evictions := (counted_false _).symm

theorem missOutcome_eq_missEvict_iff (evict : Bool) : missOutcome evict = .missEvict ↔ evict = true := by
  cases evict <;> decide

/-- A reference that ends `OK` counts a hit or a miss and no other operation does, and an eviction is counted exactly with
the outcome `MISS_EVICT` (41_lookup_fill.md R115). -/
theorem exec_counted {i : Instr} {s t : State} (ran : exec i s = .next t) :
    ∃ hit miss evict : Bool, Counted s t hit miss evict ∧
      hit.toNat + miss.toNat = (isOkRef s.params.hasData i).toNat ∧ (t.rspOutcomeQ = .missEvict ↔ evict = true) := by
  obtain ⟨addr, rfl, inRange, e⟩ | ⟨addr, v, rfl, ext, inRange, e⟩ | ⟨notRef, st, w, e⟩ := exec_reference_cases i s <;>
    cases e.symm.trans ran
  case inl =>
    have isRef : isOkRef s.params.hasData (.rd addr) = true := inRange
    cases look : isHit (s.line (decodeAddress (lowAddr addr)).line) (decodeAddress (lowAddr addr)) with
    | true =>
      refine ⟨_, _, _, readReference_counted look, congrArg Bool.toNat isRef.symm, ?_⟩
      rw [readReference_outcome look]
      simp
    | false =>
      refine ⟨_, _, _, readReference_counted look, congrArg Bool.toNat isRef.symm, ?_⟩
      rw [readReference_outcome look]
      exact missOutcome_eq_missEvict_iff _
  case inr.inl =>
    have isRef : isOkRef s.params.hasData (.wr addr v) = true := by
      simp [isOkRef, isReference, Instr.legal, operandInRange, ext, inRange]
    cases look : isHit (s.line (decodeAddress (lowAddr addr)).line) (decodeAddress (lowAddr addr)) <;>
    · refine ⟨_, _, _, writeReference_counted v look, congrArg Bool.toNat isRef.symm, ?_⟩
      rw [(writeReference_responds v look).outcome]
      decide
  case inr.inr =>
    have noEviction : RefOutcome.none ≠ .missEvict := by decide
    exact ⟨_, _, _, counted_onlyResponds s st .none w, congrArg Bool.toNat notRef.symm, iff_of_false noEviction (by decide)⟩

/-! ### The valid bits -/

/-- A write leaves every line as valid as it was. -/
theorem writeReference_line_valid {s : State} {a : Addr} (v : Word) (j : LineIndex) :
    (((writeReference a v s).goto .sIdle).line j).valid = (s.line j).valid := by
  rw [line_goto, writeReference, line_writeReference]
  split
  case isFalse => rfl
  case isTrue selected => rw [writeHitLine_valid, selected.1]

/-! ### The statements -/

/-- Settles O27: a reference leaves every line but its own, and a write every word but its own. -/
theorem oneLineAndOneWordAtMost : Obligations.OneLineAndOneWordAtMost := by
  intro i s t ran
  obtain ⟨addr, rfl, inRange, e⟩ | ⟨addr, v, rfl, ext, inRange, e⟩ | ⟨-, st, w, e⟩ := exec_reference_cases i s <;>
    cases e.symm.trans ran
  case inl =>
    refine ⟨fun j changed => ⟨addr, (inMemory_iff addr).1 inRange, .inl rfl, ?_⟩, fun a changed => ?_⟩
    · exact by_contra fun other => changed (readReference_line_of_ne other)
    · exact absurd (by rw [readReference_mem]) changed
  case inr.inl =>
    refine ⟨fun j changed => ⟨addr, (inMemory_iff addr).1 inRange, .inr ⟨v, rfl⟩, ?_⟩, fun a changed => ?_⟩
    · exact by_contra fun other => changed (writeReference_line_of_ne v other)
    · have named : a = lowAddr addr := by_contra fun other => changed (by rw [writeReference_mem_read, if_neg other])
      refine ⟨addr, v, rfl, ?_, ?_⟩
      · rw [named, lowAddr_toNat inRange]
      · rw [writeReference_mem_read, if_pos named]
  case inr.inr => exact ⟨fun _ changed => absurd rfl changed, fun _ changed => absurd rfl changed⟩

/-- Settles O28: a read leaves its line valid and the others as they are, a write leaves every line as valid as it was. -/
theorem onlyAReadValidatesALine : Obligations.OnlyAReadValidatesALine := by
  intro i s t ran j
  obtain ⟨addr, rfl, inRange, e⟩ | ⟨addr, v, rfl, ext, inRange, e⟩ | ⟨-, st, w, e⟩ := exec_reference_cases i s <;>
    cases e.symm.trans ran
  case inl =>
    by_cases selected : j = (decodeAddress (lowAddr addr)).line
    · exact ⟨fun _ => selected ▸ readReference_line_valid,
        fun _ _ => ⟨addr, rfl, (inMemory_iff addr).1 inRange, selected⟩⟩
    · rw [readReference_line_of_ne selected]
      exact ⟨id, fun invalid valid => by rw [invalid] at valid; cases valid⟩
  case inr.inl =>
    rw [writeReference_line_valid]
    exact ⟨id, fun invalid valid => by rw [invalid] at valid; cases valid⟩
  case inr.inr => exact ⟨id, fun invalid valid => absurd (invalid.symm.trans valid) (by decide)⟩

/-- Settles O29: each counter is counted with an event or without, and only references have one. -/
theorem countersRiseByOneAtMost : Obligations.CountersRiseByOneAtMost := by
  intro i s t ran
  obtain ⟨hit, miss, evict, ⟨hits, misses, evictions⟩, -, -⟩ := exec_counted ran
  refine ⟨hits ▸ counted_le _ _, misses ▸ counted_le _ _, evictions ▸ counted_le _ _, fun moved => ?_⟩
  obtain ⟨addr, rfl, -, e⟩ | ⟨addr, v, rfl, -, -, e⟩ | ⟨-, st, w, e⟩ := exec_reference_cases i s <;>
    cases e.symm.trans ran
  case inl => exact ⟨readReference_status, addr, .inl rfl⟩
  case inr.inl => exact ⟨(writeReference_responds v rfl).status, addr, .inr ⟨v, rfl⟩⟩
  case inr.inr => exact absurd ⟨rfl, rfl, rfl⟩ moved

end Sys2Proof.Machine
end

section
/-! PROOFS of the invariant of 10_state.md R36 to R39: it holds after reset, and every edge and so every step keeps it. -/

namespace Sys2Proof.Machine

/-! ### The invariant line by line -/

/-- What the invariant says of line `i` beside a memory: where it is valid, its block index is its tag beside its number and,
where there are data, they are a copy of its block (10_state.md R36, R37). -/
structure LineSound (hasData : Bool) (mem : Memory) (i : LineIndex) (l : CacheLine) : Prop where
  blockIndexAgrees : l.valid = true → l.blockIndex = l.tag ++ i
  copies : hasData = true → l.valid = true → ∀ w : Offset,
    l.data[w.toNat]'w.isLt = mem.read (wordAddress l.blockIndex w)

theorem Inv.lineSound {s : State} (inv : Inv s) (i : LineIndex) : LineSound s.params.hasData s.mem i (s.line i) where
  blockIndexAgrees := inv.blockIndexAgrees i
  copies ext := inv.copies ext i

theorem lineSound_of_invalid {hasData : Bool} {mem : Memory} {i : LineIndex} {l : CacheLine} (invalid : l.valid = false) :
    LineSound hasData mem i l where
  blockIndexAgrees valid := absurd (invalid.symm.trans valid) (by decide)
  copies _ valid := absurd (invalid.symm.trans valid) (by decide)

theorem LineSound.touch {hasData : Bool} {mem : Memory} {i : LineIndex} {l : CacheLine} (sound : LineSound hasData mem i l)
    (d : Decoded) : LineSound hasData mem i (touch d l) where
  blockIndexAgrees := sound.blockIndexAgrees
  copies := sound.copies

/-- The full overwrite of a miss, from the block of the address (41_lookup_fill.md R113, R114). -/
theorem lineSound_fillBlock (hasData : Bool) (mem : Memory) (a : Addr) (l : CacheLine) :
    LineSound hasData mem (decodeAddress a).line
      (fillBlock (decodeAddress a) (mem.block (decodeAddress a).blockIndex) l) where
  blockIndexAgrees _ := decode_blockIndex a
  copies _ _ w := by simp only [fillBlock_data, fillBlock_blockIndex, block_get]

theorem lineSound_fillMeta (mem : Memory) (a : Addr) (l : CacheLine) :
    LineSound false mem (decodeAddress a).line (fillMeta (decodeAddress a) l) where
  blockIndexAgrees _ := decode_blockIndex a
  copies ext := absurd ext (by decide)

/-- A write to memory leaves the copies of every block but the one it writes to. -/
theorem LineSound.write_of_ne {hasData : Bool} {mem : Memory} {i : LineIndex} {l : CacheLine}
    (sound : LineSound hasData mem i l) {a : Addr} (v : Word)
    (otherBlock : l.valid = true → l.blockIndex ≠ (decodeAddress a).blockIndex) : LineSound hasData (mem.write a v) i l where
  blockIndexAgrees := sound.blockIndexAgrees
  copies ext valid w := by
    have otherWord : wordAddress l.blockIndex w ≠ a := fun same =>
      otherBlock valid (wordAddress_inj (same.trans (wordAddress_decode a).symm)).1
    rw [sound.copies ext valid w, Memory.read_write_ne mem v otherWord]

/-- A write hit keeps the copy: word and memory change together (43_write.md R131). -/
theorem LineSound.writeHit {hasData : Bool} {mem : Memory} {a : Addr} {l : CacheLine}
    (sound : LineSound hasData mem (decodeAddress a).line l) (look : isHit l (decodeAddress a) = true) (u : Bool) (v : Word) :
    LineSound hasData (mem.write a v) (decodeAddress a).line (writeHitLine u (decodeAddress a) v l) where
  blockIndexAgrees := by simpa using sound.blockIndexAgrees
  copies ext valid w := by
    rw [writeHitLine_valid] at valid
    have holds_block := blockIndex_of_isHit a l look (sound.blockIndexAgrees valid)
    have sameWord : wordAddress (decodeAddress a).blockIndex w = a ↔ w = (decodeAddress a).offset :=
      ⟨fun same => (wordAddress_inj (same.trans (wordAddress_decode a).symm)).2, fun same => same ▸ wordAddress_decode a⟩
    rw [writeHitLine_get, writeHitLine_blockIndex, Memory.read_write, sound.copies ext valid w, holds_block]
    simp only [sameWord]

/-- A valid line that does not hit holds another block. -/
theorem LineSound.otherBlock {hasData : Bool} {mem : Memory} {i : LineIndex} {l : CacheLine}
    (sound : LineSound hasData mem i l) {a : Addr}
    (notSelected : ¬ (i = (decodeAddress a).line ∧ isHit l (decodeAddress a) = true)) (valid : l.valid = true) :
    l.blockIndex ≠ (decodeAddress a).blockIndex := by
  intro same
  rw [sound.blockIndexAgrees valid, decode_blockIndex] at same
  have number := congrArg BitVec.toNat same
  rw [append_line_toNat, append_line_toNat] at number
  have line_bound := i.isLt
  have otherLine_bound := (decodeAddress a).line.isLt
  exact notSelected ⟨BitVec.eq_of_toNat_eq (by omega), (isHit_iff _ _).2 ⟨valid, BitVec.eq_of_toNat_eq (by omega)⟩⟩

/-- A change that keeps memory and its history keeps the invariant when it leaves every line sound and evictions at most
misses. -/
theorem Inv.of_lines {s t : State} (inv : Inv s) (params : t.params = s.params) (mem : t.mem = s.mem)
    (transfers : t.transfers = s.transfers) (lines : ∀ i, LineSound s.params.hasData s.mem i (t.line i))
    (evictions : t.evictions.toNat ≤ t.misses.toNat) (inFlight : InFlight t) : Inv t where
  memoryForm := mem ▸ inv.memoryForm
  memoryIsHistory := mem ▸ transfers ▸ inv.memoryIsHistory
  readsCoherent := transfers ▸ inv.readsCoherent
  blockIndexAgrees i := (lines i).blockIndexAgrees
  copies ext i := by rw [mem]; exact (lines i).copies (params ▸ ext)
  evictionsBounded := evictions
  basicHasNoMemory := by rw [params, mem, transfers]; exact inv.basicHasNoMemory
  inFlight := inFlight

/-- Where no operation is in progress the FSM state is nothing the invariant looks at. -/
theorem Inv.goto_resp {s : State} (inv : Inv (s.goto .sIdle)) : Inv (s.goto .sResp) :=
  inv.of_same rfl rfl rfl rfl rfl rfl (inFlight_atRest (.inr (.inr rfl)))

/-! ### The changes of the shared operations (45_control_fsm.md R155 to R158)

Each is stated with the block idle again, where `InFlight` asks for nothing. -/

/-- A response, loaded into its registers, is nothing the invariant speaks of. -/
theorem Inv.respond {s : State} (inv : Inv s) (st : Status) (o : RefOutcome) (w : Word) :
    Inv ((respond st o w s).goto .sIdle) :=
  inv.of_same rfl rfl rfl rfl rfl rfl trivial

theorem Inv.commitReadHit {s : State} (inv : Inv s) (d : Decoded) : Inv ((commitReadHit d s).goto .sIdle) := by
  refine inv.of_lines (by simp) (by simp) (by simp) (fun i => ?_) (by simpa using inv.evictionsBounded) trivial
  rw [line_goto, line_commitReadHit]
  split
  case isTrue selected => exact selected ▸ (inv.lineSound d.line).touch d
  case isFalse => exact inv.lineSound i

/-- A read miss counts a miss at least as often as an eviction. -/
theorem Inv.evictions_le_misses_of_miss {s : State} (inv : Inv s) (evict : Bool) :
    (if evict then satinc s.evictions else s.evictions).toNat ≤ (satinc s.misses).toNat := by
  split
  · exact satinc_le_satinc inv.evictionsBounded
  · exact inv.evictionsBounded.trans (le_satinc _)

theorem Inv.commitFill {s : State} (inv : Inv s) (a : Addr) :
    Inv ((commitFill (decodeAddress a) (s.mem.block (decodeAddress a).blockIndex) s).goto .sIdle) := by
  refine inv.of_lines rfl rfl rfl (fun i => ?_) (inv.evictions_le_misses_of_miss _) trivial
  rw [line_goto, line_commitFill]
  split
  case isTrue selected => subst selected; exact lineSound_fillBlock _ _ a _
  case isFalse => exact inv.lineSound i

theorem Inv.commitBasicMiss {s : State} (inv : Inv s) (basic : s.params.hasData = false) (a : Addr) :
    Inv ((commitBasicMiss (decodeAddress a) s).goto .sIdle) := by
  refine inv.of_lines rfl rfl rfl (fun i => ?_) (inv.evictions_le_misses_of_miss _) trivial
  rw [line_goto, line_commitBasicMiss]
  split
  case isTrue selected => subst selected; exact basic ▸ lineSound_fillMeta _ a _
  case isFalse => exact inv.lineSound i

/-- A read transfer gives the memory's word, which is the one the history gives (20_memory.md R62). -/
theorem Inv.readTransfer {s : State} (inv : Inv s) (ext : s.params.hasData = true) (a : Addr) :
    Inv ((s.readTransfer a).goto .sIdle) where
  memoryForm := inv.memoryForm
  memoryIsHistory b := by
    rw [goto_mem, readTransfer_mem, goto_transfers, readTransfer_transfers, lastWritten_append_one, inv.memoryIsHistory b]
    rfl
  readsCoherent := inv.readsCoherent.read a _ (inv.memoryIsHistory a)
  blockIndexAgrees := inv.blockIndexAgrees
  copies := inv.copies
  evictionsBounded := inv.evictionsBounded
  basicHasNoMemory basic := absurd (ext.symm.trans basic) (by decide)
  inFlight := trivial

/-- Under a write the line that hits keeps its copy, and every other valid line holds another block (43_write.md R130). -/
theorem Inv.lineSound_writeReference {s : State} (inv : Inv s) (a : Addr) (v : Word) (i : LineIndex) :
    LineSound s.params.hasData (s.mem.write a v) i (((writeReference a v s).goto .sIdle).line i) := by
  rw [line_goto, writeReference, line_writeReference]
  split
  case isTrue selected =>
    obtain ⟨rfl, look⟩ := selected
    exact (inv.lineSound _).writeHit look _ v
  case isFalse notSelected =>
    refine (inv.lineSound i).write_of_ne v ((inv.lineSound i).otherBlock ?_)
    rintro ⟨rfl, look⟩
    exact notSelected ⟨rfl, look⟩

theorem Inv.writeReference {s : State} (inv : Inv s) (ext : s.params.hasData = true) (a : Addr) (v : Word) :
    Inv ((writeReference a v s).goto .sIdle) := by
  have params := (writeReference_sameRequestSide (s := s) (a := a) v).params
  have mem : ((Machine.writeReference a v s).goto .sIdle).mem = s.mem.write a v := by simp [Machine.writeReference]
  have lines := inv.lineSound_writeReference a v
  exact {
    memoryForm := mem ▸ Memory.wf_write s.mem a v inv.memoryForm
    memoryIsHistory := fun b => by
      rw [writeReference_mem_read, writeReference_transfers, lastWritten_append_one, afterTransfer, ← inv.memoryIsHistory b]
      simp only [eq_comm]
    readsCoherent := by rw [writeReference_transfers]; exact inv.readsCoherent.write a v
    blockIndexAgrees := fun i => (lines i).blockIndexAgrees
    copies := by rw [params, mem]; exact fun ext i => (lines i).copies ext
    evictionsBounded := by
      rw [goto_evictions, goto_misses, Machine.writeReference, commitWrite_evictions, writeReference_misses]
      split
      · exact inv.evictionsBounded
      · exact inv.evictionsBounded.trans (le_satinc _)
    basicHasNoMemory := fun basic => absurd ((params ▸ ext).symm.trans basic) (by decide)
    inFlight := trivial }

/-! ### The edges (45_control_fsm.md R152) -/

/-- What the edge out of `S_EXEC` can do: it commits a response, a read hit or a basic miss, or it starts a refill or a
write, with the operation in the latches that the later states speak of. -/
theorem edgeExec_outcomes (s : State) :
    (∃ st o w, edgeExec s = (respond st o w s).goto .sResp) ∨
    edgeExec s = (commitReadHit (latchedDecoded s) s).goto .sResp ∨
    (s.params.hasData = false ∧ edgeExec s = (commitBasicMiss (latchedDecoded s) s).goto .sResp) ∨
    (Refilling s 0 ∧ edgeExec s = s.goto .sFill0) ∨
    (Writing s ∧ edgeExec s = s.goto .sWmem) := by
  cases legal : Instr.legal s.params.hasData (latchedInstr s) with
  | false => exact .inl ⟨_, _, _, edgeExec_illegal legal⟩
  | true =>
    cases inRange : operandInRange s.params.hasData (latchedInstr s) with
    | false => exact .inl ⟨_, _, _, edgeExec_outOfRange legal inRange⟩
    | true =>
      cases op : latchedInstr s with
      | rd addr =>
        cases look : isHit (s.line (latchedDecoded s).line) (latchedDecoded s) with
        | true => exact .inr (.inl (edgeExec_rd_hit legal inRange op look))
        | false =>
          cases variant : s.params.hasData with
          | false => exact .inr (.inr (.inl ⟨rfl, edgeExec_rd_basicMiss legal inRange op variant look⟩))
          | true =>
            have starts := edgeExec_rd_fill legal inRange op variant look
            rw [op] at inRange
            obtain rfl := latchedInstr_rd op
            exact .inr (.inr (.inr (.inl ⟨⟨variant, op, inRange, look, fun _ none => absurd none (Nat.not_lt_zero _)⟩,
              starts⟩)))
      | wr addr v =>
        have starts := edgeExec_wr legal inRange op
        rw [op] at legal inRange
        obtain ⟨rfl, rfl⟩ := latchedInstr_wr op
        exact .inr (.inr (.inr (.inr ⟨⟨legal, op, inRange⟩, starts⟩)))
      | dec addr => exact .inl ⟨_, _, _, edgeExec_dec legal inRange op⟩
      | srd reg =>
        obtain ⟨r, mapped⟩ := Option.isSome_iff_exists.1 (op ▸ inRange)
        refine .inl ⟨.ok, .none, readStatus s r, (edgeExec_srd legal inRange op).trans ?_⟩
        rw [commitStatusRead, mapped]
      | reserved0 | reserved5 | reserved6 | reserved7 =>
        rw [op] at legal
        cases legal

theorem Inv.edgeExec {s : State} (inv : Inv s) : Inv (edgeExec s) := by
  obtain ⟨st, o, w, e⟩ | e | ⟨basic, e⟩ | ⟨refilling, e⟩ | ⟨writing, e⟩ := edgeExec_outcomes s <;> rw [e]
  · exact (inv.respond st o w).goto_resp
  · exact (inv.commitReadHit _).goto_resp
  · exact (inv.commitBasicMiss basic _).goto_resp
  · exact inv.of_same rfl rfl rfl rfl rfl rfl
      ⟨refilling.hasData, refilling.isRead, refilling.inRange, refilling.noHit, refilling.arrived⟩
  · exact inv.of_same rfl rfl rfl rfl rfl rfl ⟨writing.hasData, writing.isWrite, writing.inRange⟩

/-- The word that arrives is the one the next state of a refill asks for. -/
theorem Refilling.edgeFill {s : State} {k : Fin 3} (refilling : Refilling s k) (next : Fsm) :
    Refilling (edgeFill k next s) (k + 1) where
  hasData := refilling.hasData
  isRead := refilling.isRead
  inRange := refilling.inRange
  noHit := refilling.noHit
  arrived j arrived := by
    have fb : (Machine.edgeFill k next s).fb = s.fb.set k.val (s.mem.read (fillAddr s (BitVec.ofNat 2 k.val))) k.isLt := rfl
    have asked : fillAddr (Machine.edgeFill k next s) = fillAddr s := rfl
    have mem : (Machine.edgeFill k next s).mem = s.mem := rfl
    simp only [fb, asked, mem]
    by_cases latest : j = k
    · subst latest; simp
    · have earlier : j.val < k.val := by omega
      rw [Vector.getElem_set_ne _ _ (by omega), refilling.arrived j earlier]

/-- With three words arrived, the block of the fourth edge is the memory's. -/
theorem Refilling.filledBlock {s : State} (refilling : Refilling s 3) :
    filledBlock s = s.mem.block (latchedDecoded s).blockIndex := by
  have first : s.fb[0] = s.mem.read (fillAddr s 0) := refilling.arrived 0 (by decide)
  have second : s.fb[1] = s.mem.read (fillAddr s 1) := refilling.arrived 1 (by decide)
  have third : s.fb[2] = s.mem.read (fillAddr s 2) := refilling.arrived 2 (by decide)
  rw [Machine.filledBlock, first, second, third]
  rfl

theorem Inv.edgeFill {s : State} (inv : Inv s) {k : Fin 3} (refilling : Refilling s k) {next : Fsm}
    (inFlight : InFlight (edgeFill k next s)) : Inv (edgeFill k next s) :=
  (inv.readTransfer refilling.hasData _).of_same rfl rfl rfl rfl rfl rfl inFlight

theorem Inv.edgeFillLast {s : State} (inv : Inv s) (refilling : Refilling s 3) : Inv (edgeFillLast s) := by
  have committed := (inv.readTransfer refilling.hasData (fillAddr s 3)).commitFill (lowAddr s.addrQ)
  rw [commitFill_goto, goto_mem, readTransfer_mem] at committed
  rw [Machine.edgeFillLast, refilling.filledBlock]
  exact committed.goto_resp

theorem Inv.edgeWrite {s : State} (inv : Inv s) (writing : Writing s) : Inv (edgeWrite s) :=
  (inv.writeReference writing.hasData (lowAddr s.addrQ) s.wdataQ).goto_resp

/-- A reset empties the cache and the counters and leaves memory and its history (70_reset_and_hazards.md R190, R193). -/
theorem Inv.applyRst {s : State} (inv : Inv s) : Inv (applyRst s) :=
  inv.of_lines rfl rfl rfl (fun i => lineSound_of_invalid (line_applyRst_valid s i)) le_rfl trivial

theorem inv_powerUp (p : Params) : Inv (State.powerUp p) where
  memoryForm := Memory.wf_nil
  memoryIsHistory := Memory.read_nil
  readsCoherent before _ _ _ e := by cases before <;> cases e
  blockIndexAgrees i valid := absurd ((resetLines_invalid i).symm.trans valid) (by decide)
  copies _ i valid := absurd ((resetLines_invalid i).symm.trans valid) (by decide)
  evictionsBounded := le_rfl
  basicHasNoMemory _ := ⟨rfl, rfl⟩
  inFlight := trivial

theorem Inv.accept {s : State} (inv : Inv s) (op : OpCode) (addr wdata : Word) : Inv (accept op addr wdata s) :=
  inv.of_same rfl rfl rfl rfl rfl rfl trivial

/-- An edge without reset, by the FSM state: `InFlight` says what a refill or a write in progress has to go on with. -/
theorem Inv.clockEdge_noRst {s : State} (inv : Inv s) {p : Pins} (noRst : p.rst = false) : Inv (clockEdge p s) := by
  have inFlight := inv.inFlight
  simp only [clockEdge, noRst, InFlight] at inFlight ⊢
  cases state : s.fsm with
  | sIdle =>
    cases p.reqValid
    · exact inv
    · exact inv.accept _ _ _
  | sExec => exact inv.edgeExec
  | sResp => exact inv.of_same rfl rfl rfl rfl rfl rfl trivial
  | sFill0 | sFill1 | sFill2 =>
    rw [state] at inFlight
    cases p.memReady
    · exact inv
    · exact inv.edgeFill inFlight (inFlight.edgeFill _)
  | sFill3 =>
    rw [state] at inFlight
    cases p.memReady
    · exact inv
    · exact inv.edgeFillLast inFlight
  | sWmem =>
    rw [state] at inFlight
    cases p.memReady
    · exact inv
    · exact inv.edgeWrite inFlight

theorem Inv.clockEdge {s : State} (inv : Inv s) (p : Pins) : Inv (clockEdge p s) := by
  cases rst : p.rst with
  | true => exact clockEdge_rst s rst ▸ inv.applyRst
  | false => exact inv.clockEdge_noRst rst

theorem Inv.runEdges {s : State} (inv : Inv s) (ps : List Pins) : Inv (runEdges ps s) := by
  induction ps generalizing s with
  | nil => exact inv
  | cons p ps ih => exact ih (inv.clockEdge p)

/-! ### The steps (entry 7) -/

/-- A request performed as one step is the operation run edge by edge from its acceptance. -/
theorem exec_acceptWord (w : RequestWord) (s : State) :
    exec (decode w) (acceptWord w s) = .next (completeInFlight (acceptWord w s)) := by
  rw [completeInFlight_exec (acceptWord_fsm s w)]
  exact exec_latched (acceptWord w s)

theorem Inv.step {s t : State} (inv : Inv s) (ran : step s = .next t) : Inv t := by
  by_cases idle : s.fsm = .sIdle
  case neg =>
    cases (step_busy idle).symm.trans ran
    exact inv.runEdges _
  case pos =>
    have consumed (rest : List Stimulus) : Inv { s with stimuli := rest } :=
      inv.of_same rfl rfl rfl rfl rfl rfl (inFlight_atRest (.inl idle))
    cases hs : s.stimuli with
    | nil => cases (step_idle_nil idle hs).symm.trans ran; exact inv
    | cons x rest =>
      cases x with
      | rst => cases (step_idle_rst idle hs).symm.trans ran; exact (consumed rest).applyRst
      | request w =>
        cases ((step_idle_request idle hs).trans (exec_acceptWord w _)).symm.trans ran
        exact ((consumed rest).accept _ _ _).runEdges _

/-! ### The statements -/

/-- Settles O42: a reset empties what it does not keep, and any other edge goes by its FSM state. -/
theorem everyClockEdgeKeepsTheInvariant : Obligations.EveryClockEdgeKeepsTheInvariant :=
  fun p _ inv => inv.clockEdge p

/-- Settles O41: a step is nothing, a reset, or an operation run edge by edge to its end. -/
theorem everyStepKeepsTheInvariant : Obligations.EveryStepKeepsTheInvariant :=
  fun _ _ inv ran => inv.step ran

/-- Settles O40: no line is valid and nothing has been counted, written or begun. -/
theorem resetMeetsTheInvariant : Obligations.ResetMeetsTheInvariant :=
  ⟨inv_powerUp _, inv_powerUp⟩

/-- Settles O46: a valid line's number is in the low bits of its block index. -/
theorem aBlockIsInOneLineAtMost : Obligations.ABlockIsInOneLineAtMost := by
  intro s i j inv valid otherValid same
  have low_bits (k : LineIndex) (valid : (s.line k).valid = true) : (s.line k).blockIndex.extractLsb' 0 4 = k := by
    rw [inv.blockIndexAgrees k valid]
    exact BitVec.extractLsb'_append_eq_right
  have line_i := low_bits i valid
  have line_j := low_bits j otherValid
  exact ⟨line_i.symm.trans (same ▸ line_j), line_i.symm⟩

end Sys2Proof.Machine
end

section
/-! PROOFS of the statements on runs and on the step: 20_memory.md R70, 10_state.md R38, 44_status.md R146, and how a step
takes the next stimulus. -/

namespace Sys2Proof.Machine

/-! ### Runs -/

theorem run_succ {s t : State} (stepped : step s = .next t) (k : Nat) : core.run (k + 1) s = core.run k t := by
  have core_step : core.step s = .next t := stepped
  simp only [Host.Core.run, core_step]

theorem outcomesOf_succ {s t : State} (stepped : step s = .next t) (k : Nat) :
    outcomesOf (k + 1) s = t.rspOutcomeQ :: outcomesOf k t := by
  rw [outcomesOf, stepped]

/-- A step in which an idle block performs a request and keeps the rest of the requester's list: `u` is the state in which
the request has been accepted, `t` the next state. -/
structure Performs (s : State) (w : RequestWord) (rest : List Stimulus) (u t : State) : Prop where
  stepped : step s = .next t
  ran : exec (decode w) u = .next t
  accepted : SameArchitecture s u
  acceptedParams : u.params = s.params
  atExec : u.fsm = .sExec
  idle : t.fsm = .sIdle
  rest : t.stimuli = rest
  params : t.params = s.params

/-- A request at the head of an idle block's list is performed. -/
theorem step_performs {s : State} {w : RequestWord} {rest : List Stimulus} (idle : s.fsm = .sIdle)
    (hs : s.stimuli = .request w :: rest) : ∃ u t, Performs s w rest u t := by
  obtain ⟨t, ran⟩ := exec_next (decode w) (acceptWord w { s with stimuli := rest })
  obtain ⟨stimuli, idle', params⟩ := exec_keeps ran
  exact ⟨_, t, (step_idle_request idle hs).trans ran, ran, ⟨rfl, rfl, rfl, rfl, rfl, rfl⟩, rfl, rfl, idle', stimuli, params⟩

theorem Performs.inv {s u t : State} {w : RequestWord} {rest : List Stimulus} (performs : Performs s w rest u t)
    (inv : Inv s) : Inv u := by
  obtain ⟨lines, -, misses, evictions, mem, transfers⟩ := performs.accepted
  exact inv.of_same performs.acceptedParams lines misses evictions mem transfers
    (inFlight_atRest (.inr (.inl performs.atExec)))

/-! ### The accounts of one request (10_state.md R38) -/

/-- A counter that is not at its largest value counts the event. -/
theorem counted_toNat_of_room {c : Word} (room : c.toNat + 1 < 2 ^ 32) (event : Bool) :
    (counted c event).toNat = c.toNat + event.toNat := by
  have := event.toNat_le
  rw [counted_toNat]
  omega

/-- One request, where no counter saturates: hits and misses together count it if it is a reference that ends `OK`, and
evictions count it if its outcome is `MISS_EVICT`. -/
theorem exec_accounts {i : Instr} {s t : State} (ran : exec i s = .next t) (roomHits : s.hits.toNat + 1 < 2 ^ 32)
    (roomMisses : s.misses.toNat + 1 < 2 ^ 32) (roomEvictions : s.evictions.toNat + 1 < 2 ^ 32) :
    t.hits.toNat + t.misses.toNat = s.hits.toNat + s.misses.toNat + (if isOkRef s.params.hasData i = true then 1 else 0) ∧
    t.evictions.toNat = s.evictions.toNat + if t.rspOutcomeQ = .missEvict then 1 else 0 := by
  obtain ⟨hit, miss, evict, ⟨hits, misses, evictions⟩, refs, outcome⟩ := exec_counted ran
  rw [hits, misses, evictions, counted_toNat_of_room roomHits, counted_toNat_of_room roomMisses,
    counted_toNat_of_room roomEvictions]
  have as_number (event : Bool) : (if event = true then 1 else 0) = event.toNat := by cases event <;> rfl
  simp only [outcome, as_number, and_true]
  omega

theorem Performs.counters_le {s u t : State} {w : RequestWord} {rest : List Stimulus} (performs : Performs s w rest u t) :
    t.hits.toNat ≤ s.hits.toNat + 1 ∧ t.misses.toNat ≤ s.misses.toNat + 1 ∧ t.evictions.toNat ≤ s.evictions.toNat + 1 := by
  obtain ⟨-, hits, misses, evictions, -, -⟩ := performs.accepted
  obtain ⟨⟨-, hits_le⟩, ⟨-, misses_le⟩, ⟨-, evictions_le⟩, -⟩ := countersRiseByOneAtMost _ u t performs.ran
  rw [hits] at hits_le
  rw [misses] at misses_le
  rw [evictions] at evictions_le
  exact ⟨hits_le, misses_le, evictions_le⟩

theorem Performs.accounts {s u t : State} {w : RequestWord} {rest : List Stimulus} (performs : Performs s w rest u t)
    (roomHits : s.hits.toNat + 1 < 2 ^ 32) (roomMisses : s.misses.toNat + 1 < 2 ^ 32)
    (roomEvictions : s.evictions.toNat + 1 < 2 ^ 32) :
    t.hits.toNat + t.misses.toNat =
      s.hits.toNat + s.misses.toNat + (if isOkReference s.params.hasData w = true then 1 else 0) ∧
    t.evictions.toNat = s.evictions.toNat + if t.rspOutcomeQ = .missEvict then 1 else 0 := by
  obtain ⟨-, hits, misses, evictions, -, -⟩ := performs.accepted
  have accounts := exec_accounts performs.ran (hits ▸ roomHits) (misses ▸ roomMisses) (evictions ▸ roomEvictions)
  rw [hits, misses, evictions, performs.acceptedParams, ← isOkReference_eq] at accounts
  exact accounts

/-! ### Traffic that does not write a word (20_memory.md R70) -/

/-- An operation that is no write to a word leaves it in memory. -/
theorem exec_keeps_word {w : RequestWord} {a : Word} {s t : State} (ran : exec (decode w) s = .next t)
    (inRange : inMemory a = true) (noWrite : writesWord a (.request w) = false) :
    t.mem.read (lowAddr a) = s.mem.read (lowAddr a) := by
  by_contra changed
  obtain ⟨addr, v, op, named, -⟩ := (oneLineAndOneWordAtMost _ s t ran).2 _ changed
  rw [lowAddr_toNat inRange] at named
  simp [writesWord, op, BitVec.eq_of_toNat_eq named] at noWrite

/-- A step of an idle block that presents no write to a word leaves the block idle, its parameters and the word. -/
theorem step_keeps_word {s : State} {x : Stimulus} {rest : List Stimulus} {a : Word} (idle : s.fsm = .sIdle)
    (hs : s.stimuli = x :: rest) (inRange : inMemory a = true) (noWrite : writesWord a x = false) :
    ∃ t, step s = .next t ∧ t.fsm = .sIdle ∧ t.stimuli = rest ∧ t.params = s.params ∧
      t.mem.read (lowAddr a) = s.mem.read (lowAddr a) := by
  cases x with
  | rst => exact ⟨_, step_idle_rst idle hs, rfl, rfl, rfl, rfl⟩
  | request w =>
    obtain ⟨u, t, performs⟩ := step_performs idle hs
    have word := exec_keeps_word performs.ran inRange noWrite
    rw [performs.accepted.mem] at word
    exact ⟨t, performs.stepped, performs.idle, performs.rest, performs.params, word⟩

/-- From any state that meets the invariant, a read after traffic that does not write its address returns the word that
memory holds there now (42_read.md R122). -/
theorem run_reads_word {s : State} {a : Word} {between : List Stimulus} (inv : Inv s) (ext : s.params.hasData = true)
    (idle : s.fsm = .sIdle) (bound : a.toNat ≤ 1023) (hs : s.stimuli = between ++ [.request (encode (.rd a))])
    (noWrite : ∀ x ∈ between, writesWord a x = false) :
    ∃ t : State, core.run (between.length + 1) s = .next t ∧ t.rspStatusQ = .ok ∧
      t.rspRdataQ = s.mem.read (lowAddr a) := by
  induction between generalizing s with
  | nil =>
    obtain ⟨u, t, performs⟩ := step_performs idle hs
    obtain ⟨x, reads, status, rdata⟩ := rdReturnsTheMemoryWord u a (performs.inv inv) (performs.acceptedParams ▸ ext) bound
    have ran := performs.ran
    rw [decodeUndoesEncode, reads] at ran
    cases ran
    exact ⟨t, (run_succ performs.stepped 0).trans rfl, status, performs.accepted.mem ▸ rdata⟩
  | cons x between ih =>
    obtain ⟨t, stepped, idle', rest, params, word⟩ :=
      step_keeps_word idle hs ((inMemory_iff a).2 bound) (noWrite x (.head _))
    obtain ⟨u, runs, status, rdata⟩ :=
      ih (inv.step stepped) (params ▸ ext) idle' rest fun y hy => noWrite y (.tail _ hy)
    exact ⟨u, (run_succ stepped _).trans runs, status, rdata.trans word⟩

/-! ### Operations that only respond (44_status.md R146) -/

theorem SameArchitecture.trans {s t u : State} (first : SameArchitecture s t) (second : SameArchitecture t u) :
    SameArchitecture s u where
  lines := second.lines.trans first.lines
  hits := second.hits.trans first.hits
  misses := second.misses.trans first.misses
  evictions := second.evictions.trans first.evictions
  mem := second.mem.trans first.mem
  transfers := second.transfers.trans first.transfers

/-- `SRD` and `DEC` are no references, so all they do is respond. -/
theorem exec_sameArchitecture {i : Instr} {r : Word} {s t : State} (op : i = .srd r ∨ i = .dec r)
    (ran : exec i s = .next t) : SameArchitecture s t := by
  obtain ⟨addr, rfl, -⟩ | ⟨addr, v, rfl, -⟩ | ⟨-, st, w, e⟩ := exec_reference_cases i s
  · obtain op | op := op <;> cases op
  · obtain op | op := op <;> cases op
  · cases e.symm.trans ran
    exact ⟨rfl, rfl, rfl, rfl, rfl, rfl⟩

/-! ### The statements on runs -/

/-- Settles O44: the write leaves its word in memory, and a read returns what memory holds; after power-up that is
`MEM_INIT`. -/
theorem readsReturnTheLatestWrite : Obligations.ReadsReturnTheLatestWrite := by
  refine ⟨fun s a v between inv ext idle bound hs noWrite => ?_, fun p a before ext bound noWrite => ?_⟩
  · obtain ⟨u, t, performs⟩ := step_performs idle hs
    have written : t.mem.read (lowAddr a) = v := by
      have ran := performs.ran
      rw [decodeUndoesEncode, exec_wr_writeReference v (performs.acceptedParams ▸ ext) ((inMemory_iff a).2 bound)] at ran
      cases ran
      rw [writeReference_mem_read, if_pos rfl]
    obtain ⟨x, runs, status, rdata⟩ :=
      run_reads_word (inv.step performs.stepped) (performs.params ▸ ext) performs.idle bound performs.rest noWrite
    exact ⟨x, (run_succ performs.stepped _).trans runs, status, rdata.trans written⟩
  · have inv : Inv { State.powerUp p with stimuli := before ++ [.request (encode (.rd a))] } :=
      (inv_powerUp p).of_same rfl rfl rfl rfl rfl rfl trivial
    exact run_reads_word inv ext rfl bound rfl noWrite

/-- Settles O45, request by request. -/
theorem countersAccountForTheRun : Obligations.CountersAccountForTheRun := by
  intro s ws
  induction ws generalizing s with
  | nil => exact fun _ hs _ _ _ => ⟨s, rfl, hs, rfl, rfl⟩
  | cons w ws ih =>
    intro idle hs roomHits roomMisses roomEvictions
    rw [List.length_cons] at roomHits roomMisses roomEvictions
    obtain ⟨u, t, performs⟩ := step_performs idle hs
    obtain ⟨hits_le, misses_le, evictions_le⟩ := performs.counters_le
    obtain ⟨refs, evicts⟩ := performs.accounts (by omega) (by omega) (by omega)
    obtain ⟨x, runs, done, allRefs, allEvicts⟩ := ih t performs.idle performs.rest (by omega) (by omega) (by omega)
    rw [performs.params] at allRefs
    refine ⟨x, (run_succ performs.stepped _).trans runs, done, ?_, ?_⟩
    · rw [allRefs, refs, List.countP_cons]; omega
    · rw [allEvicts, evicts, List.length_cons, outcomesOf_succ performs.stepped, List.count_cons]
      simp only [beq_iff_eq]; omega

/-- Settles O47, operation by operation. -/
theorem snapshotsReadOneState : Obligations.SnapshotsReadOneState := by
  intro s is
  induction is generalizing s with
  | nil => exact fun _ hs _ => ⟨s, rfl, hs, rfl, rfl, rfl, rfl, rfl, rfl⟩
  | cons i is ih =>
    intro idle hs reads
    obtain ⟨u, t, performs⟩ := step_performs idle hs
    obtain ⟨r, op⟩ := reads i (.head _)
    have responds := exec_sameArchitecture op (decodeUndoesEncode i ▸ performs.ran)
    obtain ⟨x, runs, done, same⟩ := ih t performs.idle performs.rest fun j hj => reads j (.tail _ hj)
    exact ⟨x, (run_succ performs.stepped _).trans runs, done, (performs.accepted.trans responds).trans same⟩

/-! ### A table word (entry 19) -/

/-- A table word that decodes is a request word, and its operation is that of the word. -/
theorem decode_tableRequest {nbits w : Nat} {i : Instr} (decoded : decodeTableWord nbits w = some i) :
    decode (tableRequest nbits w) = i := by
  unfold decodeTableWord decodeNumber at decoded
  cases fits : RequestWord.fits (w % 2 ^ nbits) with
  | false => simp [fits] at decoded
  | true => simpa [fits, tableRequest] using decoded

/-! ### The statements on a step and on the classes of a reference -/

/-- Settles O34: the class is read off the valid bit and the tag, as the comparator is. -/
theorem classesOfAReference : Obligations.ClassesOfAReference := by
  intro l d
  cases valid : l.valid with
  | false => simp [classify, isHit, valid]
  | true => by_cases held : l.tag = d.tag <;> simp [classify, isHit, valid, held]

/-- Settles O35: an idle block with a request accepts it and performs it. -/
theorem stepRunsTheDecodedOperation : Obligations.StepRunsTheDecodedOperation :=
  fun _ _ _ idle hs => step_idle_request idle hs

/-- Settles O36: the word stands first in the list of an idle block, and its acceptance overwrites the FSM state. -/
theorem placedWordRunsNext : Obligations.PlacedWordRunsNext := by
  intro s nbits w i decoded
  rw [step_idle_request (s := s.withFetchWord nbits w) rfl rfl, decode_tableRequest decoded]
  rfl

/-- Settles O37: an idle block with nothing to do, and one with a reset to do. -/
theorem stepIdlesOrResets : Obligations.StepIdlesOrResets :=
  fun _ idle => ⟨step_idle_nil idle, fun _ => step_idle_rst idle⟩

end Sys2Proof.Machine
end

section
/-! PROOFS of the statements on one clock edge: 45_control_fsm.md R153, 20_memory.md R60 to R64, 30_encoding.md R82. -/

namespace Sys2Proof.Machine

/-! ### An edge that commits nothing (45_control_fsm.md R153) -/

/-- An edge without reset that does not enter `S_RESP` waits, moves the FSM, accepts a request or takes a word of a
refill. -/
theorem clockEdge_uncommitted {p : Pins} {s : State} (noRst : p.rst = false)
    (uncommitted : (clockEdge p s).fsm ≠ .sResp) :
    (∃ f, clockEdge p s = s.goto f) ∨ (∃ op addr wdata, clockEdge p s = accept op addr wdata s) ∨
      ∃ k f, clockEdge p s = edgeFill k f s := by
  have waits : s = s.goto s.fsm := rfl
  simp only [clockEdge, noRst] at uncommitted ⊢
  cases state : s.fsm with
  | sIdle =>
    cases p.reqValid
    · exact .inl ⟨_, waits⟩
    · exact .inr (.inl ⟨_, _, _, rfl⟩)
  | sExec =>
    rw [state] at uncommitted
    obtain fills | writes | ⟨u, commits, -⟩ := edgeExec_cases s
    · exact .inl ⟨_, fills⟩
    · exact .inl ⟨_, writes⟩
    · exact absurd (commits ▸ goto_fsm u .sResp) uncommitted
  | sFill0 | sFill1 | sFill2 =>
    cases p.memReady
    · exact .inl ⟨_, waits⟩
    · exact .inr (.inr ⟨_, _, rfl⟩)
  | sFill3 | sWmem =>
    cases ready : p.memReady
    · exact .inl ⟨_, waits⟩
    · exact absurd (by simp [state, ready, edgeFillLast, edgeWrite]) uncommitted
  | sResp => exact .inl ⟨_, rfl⟩

/-! ### Transfers at an edge (20_memory.md R60 to R63) -/

theorem edgeExec_transfers (s : State) : (edgeExec s).transfers = s.transfers := by
  obtain ⟨st, o, w, e⟩ | e | ⟨-, e⟩ | ⟨-, e⟩ | ⟨-, e⟩ := edgeExec_outcomes s <;> simp [e]

/-- An edge at which the block asks for nothing, or the memory is not ready, makes no transfer. -/
theorem clockEdge_noTransfer {p : Pins} {s : State}
    (none : ¬ ((outputs p.rst s).memValid = true ∧ p.memReady = true)) :
    (clockEdge p s).transfers = s.transfers ∧ (clockEdge p s).mem = s.mem := by
  cases rst : p.rst with
  | true => rw [clockEdge_rst s rst]; exact ⟨applyRst_transfers s, applyRst_mem s⟩
  | false =>
    simp only [clockEdge, rst, outputs] at none ⊢
    cases state : s.fsm with
    | sIdle => cases p.reqValid <;> exact ⟨rfl, rfl⟩
    | sExec => exact ⟨edgeExec_transfers s, edgeExec_mem s⟩
    | sResp => exact ⟨rfl, rfl⟩
    | sFill0 | sFill1 | sFill2 | sFill3 | sWmem =>
      cases ready : p.memReady
      · exact ⟨rfl, rfl⟩
      · exact absurd (by simp [state, asksTransfer, ready]) none

/-- The edge of a granted write makes the write transfer the outputs ask for. -/
theorem clockEdge_writeTransfer {p : Pins} {s : State} (noRst : p.rst = false) (ready : p.memReady = true)
    (writes : s.fsm = .sWmem) :
    (clockEdge p s).transfers = s.transfers ++ [.write (memAddrOut s) s.wdataQ] ∧
      (clockEdge p s).mem = s.mem.write (memAddrOut s) s.wdataQ := by
  simp [clockEdge, noRst, ready, writes, edgeWrite, memAddrOut]

/-- The edge of a granted read makes the read transfer the outputs ask for. -/
theorem clockEdge_readTransfer {p : Pins} {s : State} (noRst : p.rst = false) (ready : p.memReady = true)
    (asks : asksTransfer s.fsm = true) (reads : s.fsm ≠ .sWmem) :
    (clockEdge p s).transfers = s.transfers ++ [.read (memAddrOut s) (s.mem.read (memAddrOut s))] ∧
      (clockEdge p s).mem = s.mem := by
  cases state : s.fsm with
  | sIdle | sExec | sResp => rw [state] at asks; cases asks
  | sWmem => exact absurd state reads
  | sFill0 | sFill1 | sFill2 => simp [clockEdge, noRst, ready, state, edgeFill, memAddrOut]
  | sFill3 => simp [clockEdge, noRst, ready, state, edgeFillLast, memAddrOut]

/-! ### A memory that does not answer (20_memory.md R61, R64) -/

theorem clockEdge_waits {p : Pins} {s : State} (asks : asksTransfer s.fsm = true) (noRst : p.rst = false)
    (notReady : p.memReady = false) : clockEdge p s = s := by
  have busy : s.fsm ≠ .sIdle := fun idle => by rw [idle] at asks; cases asks
  rw [clockEdge_busy p s noRst busy, if_pos ⟨asks, notReady⟩]

/-- A block that asks for a transfer is not ready and gives no response. -/
theorem outputs_of_asks {s : State} (asks : asksTransfer s.fsm = true) :
    (outputs false s).reqReady = false ∧ (outputs false s).rspValid = false := by
  cases state : s.fsm <;> simp [state, asksTransfer, outputs] at asks ⊢

/-! ### The statements -/

/-- Settles O49: such an edge touches the FSM state, the latches, the fill buffer and the history alone. -/
theorem changesHappenAtTheCommitEdge : Obligations.ChangesHappenAtTheCommitEdge := by
  intro p s noRst uncommitted
  obtain ⟨f, e⟩ | ⟨op, addr, wdata, e⟩ | ⟨k, f, e⟩ := clockEdge_uncommitted noRst uncommitted <;>
  · rw [e]
    exact ⟨rfl, rfl, rfl, rfl, rfl, rfl, rfl, rfl⟩

/-- Settles O52: no transfer, a write or a read, as the outputs say. -/
theorem transfersHappenAsAsked : Obligations.TransfersHappenAsAsked := by
  intro p s
  by_cases granted : (outputs p.rst s).memValid = true ∧ p.memReady = true
  case neg =>
    obtain ⟨transfers, mem⟩ := clockEdge_noTransfer granted
    rw [if_neg granted, mem]
    exact ⟨transfers, fun _ => rfl⟩
  case pos =>
    rw [if_pos granted]
    obtain ⟨valid, ready⟩ := granted
    obtain ⟨asks, noRst⟩ : asksTransfer s.fsm = true ∧ p.rst = false := by simpa [outputs] using valid
    by_cases writes : s.fsm = .sWmem
    case pos =>
      obtain ⟨transfers, mem⟩ := clockEdge_writeTransfer noRst ready writes
      have we : (outputs p.rst s).memWe = true := decide_eq_true writes
      rw [if_pos we, mem]
      exact ⟨transfers, fun a => Memory.read_write _ _ a _⟩
    case neg =>
      obtain ⟨transfers, mem⟩ := clockEdge_readTransfer noRst ready asks writes
      have noWe : ¬ (outputs p.rst s).memWe = true := fun we => writes (of_decide_eq_true we)
      rw [if_neg noWe, mem]
      exact ⟨transfers, fun _ => rfl⟩

/-- Settles O53: each edge leaves the whole state, in which no response is given. -/
theorem aWaitingBlockChangesNothing : Obligations.AWaitingBlockChangesNothing := by
  intro s ps asks waits
  obtain ⟨notReady, noResponse⟩ := outputs_of_asks asks
  have stays : runEdges ps s = s ∧ responsesGiven ps s = 0 := by
    induction ps with
    | nil => exact ⟨rfl, rfl⟩
    | cons p ps ih =>
      obtain ⟨noRst, unanswered⟩ := waits p (.head _)
      obtain ⟨same, none⟩ := ih fun q hq => waits q (.tail _ hq)
      have waited := clockEdge_waits asks noRst unanswered
      simp [runEdges, responsesGiven, waited, noRst, noResponse, same, none]
  rw [stays.1]
  exact ⟨rfl, notReady, noResponse, stays.2⟩

/-- Settles O54: an edge that accepts nothing is a reset, an idle block that stays, or an edge of an operation in progress,
and none of them looks at the request signals. -/
theorem operandsMatterAtAcceptanceOnly : Obligations.OperandsMatterAtAcceptanceOnly := by
  intro p q s sameRst sameReady noneP noneQ
  cases rst : p.rst with
  | true => rw [clockEdge_rst s rst, clockEdge_rst s (sameRst ▸ rst)]
  | false =>
    have rstQ : q.rst = false := sameRst ▸ rst
    by_cases idle : s.fsm = .sIdle
    case pos =>
      have ready := (outputs_reqReady_iff s).2 idle
      rw [rst] at noneP
      rw [rstQ] at noneQ
      rw [clockEdge_idle p s rst (by simpa [ready] using noneP) idle,
        clockEdge_idle q s rstQ (by simpa [ready] using noneQ) idle]
    case neg => rw [clockEdge_busy p s rst idle, clockEdge_busy q s rstQ idle, sameReady]

end Sys2Proof.Machine
end
